-- ==== Sys2Proof/Word.lean ====
section
/-! DEFINITION. The word types of the 1640 and the index types of its numbered resources
(spec/00_scope.md, sections 4.1, 4.4 and 4.6). Everything that computes with them stands in
Sys2Proof/Machine/. -/

namespace Sys2Proof

/-- Half of a page word: one byte lane. -/
abbrev Byte := BitVec 8

/-- A page word, a code, a parameter value, a tag or a ticket: 16 bits, unsigned. -/
abbrev Word := BitVec 16

/-- A part time in milliseconds, or an event sequence value: 32 bits, wrapping. -/
abbrev Long := BitVec 32

/-- A voice V0–V15. -/
abbrev VoiceIx := Fin 16

/-- A part P0–P3. -/
abbrev PartIx := Fin 4

/-- A tune target t = 3·v + j. -/
abbrev TargetIx := Fin 48

/-- A parameter of a live set. -/
abbrev ParamIx := Fin 128

/-- A MIDI-style note or velocity number. -/
abbrev Key := Fin 128

/-- A request slot of the common page. -/
abbrev SlotIx := Fin 16

/-- A potentiometer of the panel. -/
abbrev PotIx := Fin 128

/-- A switch of the panel. -/
abbrev SwitchIx := Fin 64

/-- An LED of the panel. -/
abbrev LedIx := Fin 64

end Sys2Proof
end

