-- ==== Sys2Proof/Syntax.lean ====
section
/-! DEFINITION. The commands of the 1640: one constructor per row of spec/opcode_table.json, in the
table's order. A command is what happens next: a bus cycle of the host, the expiry of a timer, an
edge or a sample on a pin, or the next indivisible step of one of the part's own blocks
(spec/95_what_each_step_holds.md). The rows give no operands of their own; a constructor carries
what comes from outside the part and nothing that the part already holds (log entry 1). -/

namespace Sys2Proof

/-- The 48 commands. -/
inductive Instr where
  /-- RESET_N goes active (R187). -/
  | resetNActive
  /-- RESET_N is released and the power-on INIT runs (R187). -/
  | powerOnInit
  /-- The host writes GO (0x0001) to PSTAT (R189). -/
  | go
  /-- The host writes STOP (0x0002) to PSTAT (R190). -/
  | stop
  /-- The host writes SOFT_RESET (0x00C3) to PSTAT (R188). -/
  | softReset
  /-- The host writes `v` to ATTN (R184). -/
  | attnWrite (v : Word)
  /-- The host writes `v` to ATTNEN (R185). -/
  | attnenWrite (v : Word)
  /-- The 2 µs of an ATTN pulse are over (R185). -/
  | attnPulseEnd
  /-- The host writes `v` to SWEEP (R191). -/
  | sweepWrite (v : Word)
  /-- The host writes `v` to page word `w` with the byte lanes enabled that are true (R181). -/
  | hostPageWrite (w : BitVec 13) (lane0 lane1 : Bool) (v : Word)
  /-- The sweep timer expires (R191). -/
  | sweepTimerExpiry
  /-- A requested sweep starts (R191). -/
  | sweepStart
  /-- The sweeper takes a NOP stream entry (R20). -/
  | nop
  /-- The sweeper takes a NOTE_ON stream entry (R22). -/
  | noteOn
  /-- The sweeper takes a NOTE_OFF stream entry (R33). -/
  | noteOff
  /-- The sweeper takes a HOLD_ON stream entry (R34). -/
  | holdOn
  /-- The sweeper takes a HOLD_OFF stream entry (R34). -/
  | holdOff
  /-- The sweeper takes a BEND stream entry (R37). -/
  | bend
  /-- The sweeper takes an ALL_OFF stream entry (R36). -/
  | allOff
  /-- The damp timer of voice `v` expires (R30). -/
  | dampExpiry (v : VoiceIx)
  /-- The release window timer of voice `v` expires (R31). -/
  | releaseWindowExpiry (v : VoiceIx)
  /-- The gap of voice `v` passes (R75). -/
  | gapEnd (v : VoiceIx)
  /-- The part time advances by one millisecond (R183). -/
  | partTimeTick
  /-- The 1 ms glide-step timer expires (R51). -/
  | glideStepExpiry
  /-- The morph-step timer expires (R134). -/
  | morphStepExpiry
  /-- The sweeper takes a SETUP_LOAD request (R198). -/
  | setupLoad
  /-- The sweeper takes a LAYOUT request (R15). -/
  | layout
  /-- The sweeper takes a VOICE_SERVICE request (R17). -/
  | voiceService
  /-- The sweeper takes a PARAM_WRITE request (R120). -/
  | paramWrite
  /-- The sweeper takes a CAPTURE request (R126). -/
  | capture
  /-- The sweeper takes a RECALL request (R132). -/
  | recall
  /-- The sweeper takes a ROUTE request (R178). -/
  | route
  /-- The sweeper takes a TUNE request (R104). -/
  | tune
  /-- The sweeper takes a TUNE_ABORT request (R106). -/
  | tuneAbort
  /-- The sweeper takes a TABLE_IMPORT request (R107). -/
  | tableImport
  /-- The sweeper takes a request of an unknown kind (R196). -/
  | unknownKind
  /-- The tune engine takes the first eligible queued target (R86). -/
  | targetTake
  /-- The settle timer expires (R90). -/
  | settleExpiry
  /-- The measurement window closes with the count `n` of crystal cycles (R91). -/
  | measurementWindowClose (n : BitVec 32)
  /-- The gate timeout expires before the window closes (R91). -/
  | gateTimeout
  /-- The refresh period timer expires (R66). -/
  | refreshPeriodExpiry
  /-- The turn of the current CV slot ends with its hold strobe (R68). -/
  | slotWrittenEvent
  /-- The pot pass timer expires (R149). -/
  | potPassExpiry
  /-- The conversion in progress completes with the ADC reading `sample` of the selected input (R150). -/
  | potConversion (sample : BitVec 12)
  /-- The 125 µs of the current switch row end and SC0–SC7 read `cols`, bit c for SCc, 1 = active (R156). -/
  | switchRowSample (cols : BitVec 8)
  /-- The millisecond of the next LED row starts (R161). -/
  | ledRowTurn
  /-- A rising edge of TUNE_IN opens the measurement window (R91). -/
  | measurementWindowOpen
  /-- The sweeper takes a stream entry whose kind is not in the table (R19). -/
  | rejectedStreamEntry
  deriving DecidableEq, Repr

end Sys2Proof
end

