-- ==== Sys2Proof/Decode.lean ====
section
/-! DEFINITION. The command that a word spells by the table's bits. No row of spec/opcode_table.json
gives bits (every row's "fields" is empty and none has "fixed"), so no word spells a command. The
codes by which the host's words name requests and stream entries (R200, R201) are read in
Sys2Proof/Machine/Operands.lean. -/

namespace Sys2Proof

/-- `none`: no row of the table gives bits. -/
def decodeTableWord (_nbits _w : Nat) : Option Instr := none

end Sys2Proof
end

