-- ==== Sys2Proof/Config.lean ====
section
/-! DEFINITION. What the specification leaves open as a value: constants without a body, so that
nothing proved about the model can rest on what they are. -/

namespace Sys2Proof

/-- FREE VALUE (log entry 5). The low bound of a trial or park code of target `t` when the installed CV
map holds no pitch slot of `t` although `t` is being tuned. The situation arises when a CV map whose
installation was pending (R65) replaces the map under which the TUNE was accepted (R104). R89, R94
and R71 clamp to 'the bounds of the target's pitch slot', and the spec states none for this case. -/
opaque Config.unmappedLow (t : Nat) : Word

/-- FREE VALUE (log entry 5). The high bound in the situation of `Config.unmappedLow`. -/
opaque Config.unmappedHigh (t : Nat) : Word

/-- FREE VALUE (log entry 18). The level at which DCLK stands during the dwell of a slot into which the
code `c` was sent. R65 and R187 give DCLK low where no pass runs, and R67 lets the transfer of a code fall
within its 1 µs; no rule gives the level that it leaves. -/
opaque Config.dwellClock (c : Word) : Bool

/-- FREE VALUE (log entry 18). The level at which DDATA stands during the dwell, as `Config.dwellClock` of
DCLK. -/
opaque Config.dwellData (c : Word) : Bool

/-- FREE VALUE (log entry 24). Where a soft reset falls that comes while the sweeper stands before a CAPTURE:
`none`, the sweeper has not taken the request; `some n`, it has taken it, and the first `n` of the 132 writes of
R126 have been made. R127 says what such a cut capture leaves and not where it is cut. `k` is the sweeper's own
count of takes and soft resets, so that no two resets share a value. -/
opaque Config.captureCut (k : Nat) : Option (Fin 133)

end Sys2Proof
end

