-- ==== Sys2Proof/Machine/Bits.lean ====
section
/-! DEFINITION. Bytes and words, saturating counts and clamps (spec/00_scope.md, sections 4.2 to 4.4). -/

namespace Sys2Proof.Machine

/-- The low byte of a page word, on byte lane 0. -/
def lowByte (w : Word) : Byte := w.setWidth 8

/-- The high byte of a page word, on byte lane 1. -/
def highByte (w : Word) : Byte := (w >>> 8).setWidth 8

/-- The word with the given high and low bytes. -/
def joinBytes (hi lo : Byte) : Word := hi ++ lo

/-- The low word of a 32-bit value: it is stored first (section 4.4). -/
def lowWord (t : Long) : Word := t.setWidth 16

/-- The high word of a 32-bit value. -/
def highWord (t : Long) : Word := (t >>> 16).setWidth 16

/-- A 16-bit count that stays at 65535 (section 4.3). -/
def satInc (w : Word) : Word := if w = 0xFFFF#16 then w else w + 1#16

/-- 'Clamped to a…b' (section 4.2). -/
def clampInt (lo hi x : Int) : Int := if x < lo then lo else if hi < x then hi else x

/-- 1 for a set flag, 0 for a clear one, as a byte. -/
def flagByte (b : Bool) : Byte := if b then 1#8 else 0#8

/-- 1 for a set flag, 0 for a clear one, as a word. -/
def flagWord (b : Bool) : Word := if b then 1#16 else 0#16

/-- A mask with only bit `i` set. -/
def bitMask (w i : Nat) : BitVec w := BitVec.ofNat w (2 ^ i)

/-- How many bits of a mask are set. -/
def popCount {w : Nat} (x : BitVec w) : Nat := ((List.range w).filter fun i => x.getLsbD i).length

/-- The numbers of the set bits of a mask, ascending. -/
def setBits (n : Nat) {w : Nat} (x : BitVec w) : List (Fin n) :=
  (List.finRange n).filter fun i => x.getLsbD i.val

/-- The number nearest to a sample of any width, as a word. -/
def wordOf (n : Nat) : Word := BitVec.ofNat 16 n

/-- A signed quantity as a two's complement word. -/
def signedWord (x : Int) : Word := BitVec.ofInt 16 x

end Sys2Proof.Machine
end

