-- ==== Sys2Proof/Machine/Page.lean ====
section
/-! DEFINITION. The common page (R180): 8192 words of 16 bits, little-endian, kept as the list of its
nonzero bytes in rising order of address. A power-on INIT clears every word to 0 (R187), so an
unlisted byte reads 0, which is the page's reset value and no choice of the model. -/

namespace Sys2Proof.Machine

/-- The bytes of the page that are not 0. -/
abbrev Page := List Host.Cell

/-- What a byte that is not listed reads as: the value R187 clears the page to. -/
def Page.cleared : Byte := 0#8

/-- The canonical form of a page: addresses strictly rising, and no listed byte equal to what an
unlisted one reads as. -/
def Page.wf : Page → Bool
  | [] => true
  | [c] => c.2 != Page.cleared
  | c :: d :: rest => c.2 != Page.cleared && decide (c.1 < d.1) && Page.wf (d :: rest)

/-- The byte at byte offset `k`. -/
def Page.readByte : Page → Nat → Byte
  | [], _ => Page.cleared
  | c :: rest, k => if c.1 = k then c.2 else Page.readByte rest k

/-- The page without an entry for `k`. -/
def Page.without (k : Nat) : Page → Page
  | [] => []
  | c :: rest => if c.1 = k then Page.without k rest else c :: Page.without k rest

/-- The page with byte offset `k` holding `v`. -/
def Page.writeByte (k : Nat) (v : Byte) : Page → Page
  | [] => if v = Page.cleared then [] else [(k, v)]
  | c :: rest =>
    if c.1 < k then c :: Page.writeByte k v rest
    else if v = Page.cleared then Page.without k (c :: rest)
    else (k, v) :: Page.without k (c :: rest)

/-- The page word with word number `w`: the low byte lies at the lower byte offset (section 4.4). -/
def Page.readWord (p : Page) (w : Nat) : Word :=
  joinBytes (Page.readByte p (2 * w + 1)) (Page.readByte p (2 * w))

/-- The page with word `w` holding `v`. -/
def Page.writeWord (p : Page) (w : Nat) (v : Word) : Page :=
  Page.writeByte (2 * w + 1) (highByte v) (Page.writeByte (2 * w) (lowByte v) p)

/-- A host write of one or both bytes of a word (R181): a lane that is not enabled keeps its byte. -/
def Page.writeLanes (p : Page) (w : Nat) (lane0 lane1 : Bool) (v : Word) : Page :=
  let p0 := if lane0 then Page.writeByte (2 * w) (lowByte v) p else p
  if lane1 then Page.writeByte (2 * w + 1) (highByte v) p0 else p0

/-- Writes the words of a record one after another from word number `w` on. -/
def Page.writeWords (p : Page) (w : Nat) : List Word → Page
  | [] => p
  | x :: xs => Page.writeWords (Page.writeWord p w x) (w + 1) xs

/-- Writes, from word number `w` on, the fields of the record `new` that differ from those of `old`, each one
whole (R200). A field is given by its number of words and by whether it holds a place that the layout marks 0:
such a field is written each time its record is. -/
def Page.writeFields (p : Page) (w : Nat) : List (Nat × Bool) → List Word → List Word → Page
  | [], _, _ => p
  | f :: fs, old, new =>
    Page.writeFields
      (if f.2 = false ∧ old.take f.1 = new.take f.1 then p else Page.writeWords p w (new.take f.1))
      (w + f.1) fs (old.drop f.1) (new.drop f.1)

/-- Reads `n` words from word number `w` on. -/
def Page.readWords (p : Page) (w n : Nat) : List Word :=
  (List.range n).map fun i => Page.readWord p (w + i)

/-! The word numbers at which the regions of R180 begin (byte offset / 2). -/

/-- Word 0 of the header. -/
def headerBase : Nat := 0x0000
/-- Word 0 of request slot `i`. -/
def slotBase (i : SlotIx) : Nat := 0x0020 + 16 * i.val
/-- Word 0 of the record of voice `v`. -/
def voiceBase (v : VoiceIx) : Nat := 0x0120 + 16 * v.val
/-- Word 0 of the record of part `p`. -/
def partBase (p : PartIx) : Nat := 0x0220 + 32 * p.val
/-- Word 0 of the record of switch `i`. -/
def switchBase (i : SwitchIx) : Nat := 0x02A0 + 2 * i.val
/-- Word 0 of the tune status block. -/
def statusBase : Nat := 0x0320
/-- Word 0 of fault log entry `i`. -/
def faultBase (i : Fin 16) : Nat := 0x0340 + 8 * i.val
/-- Word 0 of note stream entry `i`. -/
def streamBase (i : Fin 128) : Nat := 0x03C0 + 4 * i.val
/-- Word 0 of the record of pot `i`. -/
def potBase (i : PotIx) : Nat := 0x05C0 + 4 * i.val
/-- Word 0 of the tune area entry of target `t`. -/
def tuneBase (t : TargetIx) : Nat := 0x07C0 + 12 * t.val
/-- Word 0 of patch frame `f`. -/
def frameBase (f : Fin 4) : Nat := 0x0A00 + 132 * f.val
/-- Word 0 of CV map entry `i` of the setup area. -/
def mapBase (i : Nat) : Nat := 0x0C10 + 6 * i
/-- Word 0 of control descriptor `d` of the setup area. -/
def descBase (d : Nat) : Nat := 0x10F0 + 2 * d
/-- Word 0 of the layout and timing block. -/
def layoutBase : Nat := 0x12F0

end Sys2Proof.Machine
end

