-- ==== Sys2Proof/Machine/Records.lean ====
section
/-! DEFINITION. The record types of the 1640's blocks (spec/00_scope.md, section 1.1, 'state it owns').
Plain data throughout. -/

namespace Sys2Proof.Machine

/-! ### The page port and the sweeper (chapter 10) -/

/-- The run states (R186). INIT stands while RESET_N is held; the work of an INIT is one step. -/
inductive RunState where
  | init | setup | run
  deriving DecidableEq, Repr

/-- The page port's registers and the ATTN output (R184 to R186). -/
structure Port where
  /-- Run state, PSTAT bits 1:0. -/
  run : RunState
  /-- LOADED, PSTAT bit 2. -/
  loaded : Bool
  /-- The eight attention causes, in the bit order of ATTN (R184). -/
  attn : Byte
  /-- The eight enables of ATTNEN (R185). -/
  attnEnable : Byte
  /-- The mode bit of ATTNEN: true is pulse mode (R185). -/
  attnPulse : Bool
  /-- The ATTN output is active. In pulse mode it is active exactly while a pulse runs. -/
  attnLine : Bool
  deriving DecidableEq, Repr

/-- The setup errors of header word 2 (R183). -/
inductive SetupError where
  | none | notLoaded | loadFailed
  deriving DecidableEq, Repr

/-- The counts and codes the part keeps and copies into the header (R183). -/
structure Header where
  setupError : SetupError
  setupDetail : Word
  /-- Rejected entries, saturating (R19). -/
  rejected : Word
  /-- Stream overrun count, saturating (R193). -/
  streamOverruns : Word
  /-- Last pass time in µs (R77). -/
  lastPass : Word
  /-- Refresh overrun count, saturating (R69). -/
  refreshOverruns : Word
  /-- Discarded completions, saturating (R197). -/
  discarded : Word
  deriving DecidableEq, Repr

/-- A request in flight: its slot and the ticket it was taken under (R194). `id` is the model's own: it
tells two requests apart that a host has posted in one slot under one ticket (R194, R197). -/
structure Inflight where
  id : Nat
  slot : SlotIx
  ticket : Word
  deriving DecidableEq, Repr

/-- How far a running sweep has come (R191). -/
inductive SweepRun where
  /-- No sweep runs. -/
  | idle
  /-- `left` entries of the stream are still to be treated, after `done` treated ones (R193). -/
  | stream (done left : Nat)
  /-- The slots still to be taken, in the order fixed after the stream (R194). -/
  | slots (order : List SlotIx)
  deriving DecidableEq, Repr

/-- The sweeper (R191 to R197). -/
structure Sweeper where
  /-- Last-taken ticket L (R194). -/
  last : Word
  /-- Taken count of the note stream (R192). -/
  taken : Word
  /-- Installed sweep interval in units of 0.25 ms; the sweep timer runs while it is not 0 (R191). -/
  interval : Word
  /-- An interval that a SETUP_LOAD has loaded and the end of its sweep installs (R191). -/
  nextInterval : Option Word
  /-- Sweep pending, PSTAT bit 5 (R186). -/
  pending : Bool
  /-- Sweep count, read in SWEEP (R191). -/
  count : Word
  run : SweepRun
  /-- The in-flight set (R196). -/
  inflight : List Inflight
  /-- The `id` of the next request taken; a soft reset uses one up as well (the model's own). -/
  nextId : Nat
  deriving DecidableEq, Repr

/-! ### Voices and parts (chapters 1 and 2) -/

/-- The seven voice states (R2). -/
inductive VoiceState where
  | free | sounding | held | releasing | stealing | tuning | out
  deriving DecidableEq, Repr

/-- Where a tuning voice goes when it is returned (R1). -/
inductive ReturnState where
  | free | out
  deriving DecidableEq, Repr

/-- Note, velocity and tag of a voice: present together (R2). -/
structure NoteInfo where
  note : Key
  velocity : Key
  tag : Word
  deriving DecidableEq, Repr

/-- The note that waits for a damp to end (R1). -/
structure PendingNote where
  info : NoteInfo
  off : Bool
  deriving DecidableEq, Repr

/-- The retrigger gap of a voice (R75): it has passed; it runs; or the part time has reached gap-until
and the gate unit has still to take that as the gap's end. -/
inductive Gap where
  | passed | running | due
  deriving DecidableEq, Repr

/-- One voice record (R1), with the two timers of R2, the glide of R48 and the gate unit's state of the
voice (R73, R74). -/
structure Voice where
  state : VoiceState
  /-- The previous state (R3), newest of three. -/
  prev1 : VoiceState
  prev2 : VoiceState
  prev3 : VoiceState
  part : Option PartIx
  note : Option NoteInfo
  pending : Option PendingNote
  ageStamp : Long
  releaseStamp : Long
  freeSince : Long
  returnState : Option ReturnState
  unisonIndex : Byte
  unisonCount : Byte
  /-- G in units of 1/65536 ps (R48). -/
  glide : BitVec 31
  /-- g*, in ps (R48). -/
  glideTarget : BitVec 15
  gateRequest : Bool
  gapUntil : Long
  gap : Gap
  pitchWritten : Bool
  changeCount : Word
  /-- The running damp timer with the time in ms it was started with (R28). -/
  damp : Option Nat
  /-- The running release window timer with the time in ms it was started with (R31). -/
  window : Option Nat
  /-- The written set: the pitch slots A, B and CUTOFF written since the flag was cleared (R73). -/
  writtenA : Bool
  writtenB : Bool
  writtenF : Bool
  /-- The gate output G0–G15 of the voice (R74). -/
  gateOut : Bool
  deriving DecidableEq, Repr

/-- The part modes (R9). -/
inductive PartMode where
  | poly | monoLast | monoLow | monoHigh
  deriving DecidableEq, Repr

/-- One part record (R9), with the three fields that the patch engine hands to it. -/
structure Part where
  group : Word
  mode : PartMode
  unison : Byte
  /-- Held-note list, oldest first (R39). -/
  held : List Key
  sustain : Bool
  /-- Bend, signed, −8192…8191 (R37). -/
  bend : BitVec 14
  dropped : Word
  /-- Morph progress, 0xFFFF for none (R140). -/
  progress : Word
  recallTicket : Word
  /-- The 128 edit marks (R118). -/
  marks : BitVec 128
  changeCount : Word
  deriving DecidableEq, Repr

/-! ### CV map and refresh (chapter 4) -/

/-- The slot kinds (R64). -/
inductive SlotKind where
  | pitchA | pitchB | cutoff | level | velocity
  deriving DecidableEq, Repr

/-- The owner of a CV slot (R64). -/
inductive Owner where
  | voice (v : VoiceIx)
  | part (p : PartIx)
  deriving DecidableEq, Repr

/-- One CV slot (R64). -/
structure CvSlot where
  kind : SlotKind
  longDwell : Bool
  owner : Owner
  /-- The parameter a LEVEL slot reads; 0 for other kinds, which do not use it. -/
  param : ParamIx
  address : Byte
  low : Word
  high : Word
  tuneCode : Option Word
  deriving DecidableEq, Repr

/-- The source of a written code (R70); a trial code names its offer (R71). -/
inductive CodeSource where
  | computed
  | trial (offer : Nat)
  | park
  | tuneCode
  deriving DecidableEq, Repr

/-- The turn of a CV slot (R67): its place in the map, the code obtained at its start, and whether the
owner's pitch-written flag has stood untouched since then (R73). -/
structure Turn where
  index : Nat
  slot : CvSlot
  code : Word
  source : CodeSource
  fresh : Bool
  deriving DecidableEq, Repr

/-- A period timer (R66, R149): stopped, running, or expired while its pass still runs. -/
inductive PeriodTimer where
  | stopped | running | expired
  deriving DecidableEq, Repr

/-- A CV map and refresh period whose installation waits for the end of the running pass (R65). -/
structure MapLoad where
  map : List CvSlot
  period : Word
  deriving DecidableEq, Repr

/-- The levels of the refresh lines that frame a code and strobe a hold: true is high (R65, R67). -/
structure RefreshLines where
  dsync : Bool
  /-- SHS_N, low while a hold output takes the DAC voltage. -/
  shsN : Bool
  dclk : Bool
  ddata : Bool
  deriving DecidableEq, Repr

/-- The refresh engine (R64 to R79). -/
structure Refresh where
  map : List CvSlot
  /-- Refresh period in units of 0.25 ms; 0 while none is held (R65). -/
  period : Word
  next : Option MapLoad
  timer : PeriodTimer
  /-- The slot in its turn; a pass runs exactly while there is one. -/
  turn : Option Turn
  /-- The overrun condition, PSTAT bit 4 (R69). -/
  overrun : Bool
  /-- SA0–SA7 (R67). -/
  address : Byte
  /-- DSYNC, SHS_N, DCLK and DDATA, as they stand at rest or in a dwell (R65, R67, R187). -/
  lines : RefreshLines
  /-- The code the DAC output holds (R67); `none` before the first. -/
  dac : Option Word
  /-- The code each hold output was last strobed with; `none` where the 1640 has strobed none (R65, R79). -/
  holds : Vector (Option Word) 256
  deriving DecidableEq, Repr

/-! ### Tune engine (chapter 5) -/

/-- The standing of a target's table (R80). -/
inductive Health where
  | nominal | tuned | stale | failed
  deriving DecidableEq, Repr

/-- One tune target's record (R80). -/
structure TuneRec where
  table : Vector Word 9
  drift : BitVec 8
  health : Health
  serial : Word
  deriving DecidableEq, Repr

/-- The states of the tune engine (R84). -/
inductive EngineState where
  | idle | wait | settle | measure
  deriving DecidableEq, Repr

/-- The fault kinds (chapter 5, section 5.5). -/
inductive FaultKind where
  | noSignal | unstable | noConverge | outOfRange | notMonotonic | yielded
  deriving DecidableEq, Repr

/-- The point being measured (R89, R98). -/
inductive TunePoint where
  | full (k : Fin 9)
  | quick
  deriving DecidableEq, Repr

/-- The current target and all the work in flight on it (R84, R89 to R95). -/
structure TuneJob where
  target : TargetIx
  /-- The entry's yield count (R83). -/
  yields : Nat
  point : TunePoint
  attempt : Nat
  /-- Trial codes of this attempt so far (R89, R94). -/
  trials : Nat
  /-- The current offer's code and number (R71). -/
  code : Word
  offer : Nat
  /-- The partial table: the points found so far (R96). -/
  newTable : List Word
  /-- The first error while a confirm measurement runs (R93). -/
  firstError : Option Int
  /-- The measurement window has opened (R91). -/
  windowOpen : Bool
  /-- The count of the last window closed in this attempt, 0 if none (R101). -/
  lastCount : BitVec 32
  /-- The time in ms that the running settle or gate timeout timer was started with; 0 in WAIT. -/
  timer : Nat
  deriving DecidableEq, Repr

/-- An entry of the tune queue (R83). -/
structure QueueEntry where
  target : TargetIx
  yields : Nat
  deriving DecidableEq, Repr

/-- The TUNE request in flight, with its arguments and what has become of its targets (R104, R105). -/
structure TuneReq where
  req : Inflight
  quick : Bool
  idleSched : Bool
  yieldPolicy : Bool
  faultMask : Word
  severityMask : Word
  tolerance : Nat
  timeoutCode : Nat
  named : BitVec 48
  committed : BitVec 48
  fatal : BitVec 48
  deriving DecidableEq, Repr

/-- The tune engine (R80 to R110). -/
structure Tune where
  recs : Vector TuneRec 48
  engine : EngineState
  job : Option TuneJob
  queue : List QueueEntry
  req : Option TuneReq
  faultCount : Word
  nextIndex : Fin 16
  firstFault : Option (Fin 16)
  /-- Number of the latest offer made (the model's own; R68 names offers). -/
  offers : Nat
  /-- TS0–TS5 (R86). -/
  select : TargetIx
  /-- Idle threshold in ms (R85). -/
  idleThreshold : Word
  deriving DecidableEq, Repr

/-! ### Patch engine (chapters 6 and 7) -/

/-- One lane of a morph context; its kind is that of its parameter (R112, R130). -/
structure Lane where
  param : ParamIx
  start : Word
  target : Word
  deriving DecidableEq, Repr

/-- A morph context (R130): its owner by the `id` of the RECALL request. -/
structure Context where
  owner : Nat
  startTime : Long
  morphTime : Nat
  lanes : List Lane
  deriving DecidableEq, Repr

/-- A RECALL in flight: its counts (R131) and its copy of the frame's values (R129). -/
structure RecallReq where
  req : Inflight
  partsLost : Nat
  lanesCancelled : Nat
  copy : Vector Word 128
  deriving DecidableEq, Repr

/-- The patch engine (R111 to R147); edit marks, morph progress and recall ticket stand in `Part`. -/
structure Patch where
  live : Vector (Vector Word 128) 4
  contexts : Vector (Option Context) 4
  recalls : List RecallReq
  captureCounter : Word
  deriving DecidableEq, Repr

/-! ### Control descriptors (chapter 9) -/

/-- The kinds of a pot descriptor (R166). -/
inductive PotKind where
  | unused | report | param | bend
  deriving DecidableEq, Repr

/-- A pot descriptor (R166). A field that its kind does not use is held as 0. -/
structure PotDesc where
  kind : PotKind
  mask : BitVec 4
  /-- PASS policy; false is JUMP. -/
  pass : Bool
  param : ParamIx
  /-- Hysteresis nibble d. -/
  hysteresis : BitVec 4
  window : BitVec 4
  deriving DecidableEq, Repr

/-- The kinds of a switch descriptor (R167). -/
inductive SwitchKind where
  | unused | report | toggle | momentary | step | sustain
  deriving DecidableEq, Repr

/-- A switch descriptor (R167). A field that its kind does not use is held as 0. -/
structure SwitchDesc where
  kind : SwitchKind
  mask : BitVec 4
  pressReport : Bool
  releaseReport : Bool
  param : ParamIx
  deriving DecidableEq, Repr

/-- The source and index of an LED descriptor (R162, R167). -/
inductive LedDesc where
  | unused
  | image (bit : Fin 64)
  | gate (v : VoiceIx)
  | detached (pot : PotIx)
  | tuning (v : VoiceIx)
  deriving DecidableEq, Repr

/-- The installed descriptors, 256 in all (R166). -/
structure Router where
  pots : Vector PotDesc 128
  switches : Vector SwitchDesc 64
  leds : Vector LedDesc 64
  deriving DecidableEq, Repr

/-! ### Panel scanner (chapter 8) -/

/-- The pickup states (R174). -/
inductive Pickup where
  | unrouted | attached | detached
  deriving DecidableEq, Repr

/-- One pot record (R148). -/
structure Pot where
  /-- The last four samples, oldest first; empty while the valid flag is clear. -/
  history : List (BitVec 12)
  prevV16 : Word
  valid : Bool
  accepted : BitVec 12
  v16 : Word
  changeCount : Byte
  pickup : Pickup
  deriving DecidableEq, Repr

/-- The conversion in progress (R150): its pot, the descriptor read at its start, and whether an
installation has made the pot UNUSED meanwhile, so that it is emptied when the conversion is done (R153). -/
structure Conversion where
  pot : PotIx
  desc : PotDesc
  emptyAfter : Bool
  deriving DecidableEq, Repr

/-- One switch record (R155). -/
structure Switch where
  raw : Bool
  stable : Nat
  debounced : Bool
  presses : Byte
  releases : Byte
  deriving DecidableEq, Repr

/-- The panel scanner (R148 to R165). -/
structure Panel where
  pots : Vector Pot 128
  /-- Installed pot pass period code; `none` before the first load (R149). -/
  potPeriod : Option (Fin 4)
  /-- A period code whose installation waits for the end of the running pass (R149). -/
  nextPeriod : Option (Fin 4)
  potTimer : PeriodTimer
  /-- The conversion in progress; a pot pass runs exactly while there is one. -/
  conversion : Option Conversion
  /-- PM0–PM3 (R150). -/
  potSelect : BitVec 4
  /-- The input AIN0–AIN7 that the ADC converts (R150). -/
  adcInput : Fin 8
  switches : Vector Switch 64
  /-- Installed debounce count; 0 before the first load (R157). -/
  debounce : Nat
  /-- The row being driven, SR0–SR7 (R156). -/
  switchRow : Fin 8
  /-- The matrix scan runs (from the end of INIT); while it does not, SR0–SR7 are inactive. -/
  scanning : Bool
  /-- The row the next LED turn lights (R161). -/
  ledNext : Fin 8
  /-- The lit row LR0–LR7; `none` while all lines are inactive. -/
  ledRow : Option (Fin 8)
  /-- LC0–LC7. -/
  ledColumns : Byte
  deriving DecidableEq, Repr

end Sys2Proof.Machine
end

