-- ==== Sys2Proof/Machine/Formats.lean ====
section
/-! DEFINITION. The layouts and numeric codes in which the part writes its records (R200; chapter 11,
sections 11.1 to 11.8 and 11.11). -/

namespace Sys2Proof.Machine

/-! ### Numeric codes (section 11.11) -/

def RunState.code : RunState → Word
  | .init => 0#16
  | .setup => 1#16
  | .run => 2#16

def SetupError.code : SetupError → Word
  | .none => 0#16
  | .notLoaded => 1#16
  | .loadFailed => 2#16

def VoiceState.code : VoiceState → Byte
  | .free => 0#8
  | .sounding => 1#8
  | .held => 2#8
  | .releasing => 3#8
  | .stealing => 4#8
  | .tuning => 5#8
  | .out => 6#8

def PartMode.code : PartMode → Byte
  | .poly => 0#8
  | .monoLast => 1#8
  | .monoLow => 2#8
  | .monoHigh => 3#8

def Pickup.code : Pickup → Byte
  | .unrouted => 0#8
  | .attached => 1#8
  | .detached => 2#8

def EngineState.code : EngineState → Word
  | .idle => 0#16
  | .wait => 1#16
  | .settle => 2#16
  | .measure => 3#16

def Health.code : Health → Word
  | .nominal => 0#16
  | .tuned => 1#16
  | .stale => 2#16
  | .failed => 3#16

def FaultKind.code : FaultKind → Byte
  | .noSignal => 0#8
  | .unstable => 1#8
  | .noConverge => 2#8
  | .outOfRange => 3#8
  | .notMonotonic => 4#8
  | .yielded => 5#8

/-- The return state of a voice record: 0 FREE, 6 OUT, absent 0xFF (section 11.4). -/
def returnStateByte : Option ReturnState → Byte
  | none => 0xFF#8
  | some .free => 0#8
  | some .out => 6#8

/-! Slot states (R195). -/
def slotFree : Word := 0#16
def slotPosted : Word := 1#16
def slotTaken : Word := 2#16
def slotDone : Word := 3#16
def slotFailed : Word := 4#16

/-! Results (R196). -/
def resOk : Word := 0#16
def resUnknownKind : Word := 1#16
def resBadArgument : Word := 2#16
def resWrongState : Word := 3#16
def resBusy : Word := 4#16
def resBadFrame : Word := 5#16
def resNotMonotonic : Word := 6#16
def resSuperseded : Word := 7#16
def resAborted : Word := 8#16
def resReset : Word := 9#16
def resPartial : Word := 10#16

/-- The tag of a valid patch frame (R122). -/
def frameTag : Word := 0x5A31#16

/-- The format tag of the header (R183). -/
def formatTag : Word := 0x1640#16

/-- Morph progress or a status word when there is none. -/
def noneWord : Word := 0xFFFF#16

/-! ### Records -/

/-- An absent optional byte reads 0xFF (R8). -/
def optByte {n : Nat} (x : Option (Fin n)) : Byte :=
  match x with
  | some i => BitVec.ofNat 8 i.val
  | none => 0xFF#8

/-- The words of a voice record (section 11.4; R8, R200). -/
def voiceWords (x : Voice) : List Word :=
  [ joinBytes x.prev1.code x.state.code,
    joinBytes x.prev3.code x.prev2.code,
    joinBytes (optByte (x.note.map (·.note))) (optByte x.part),
    joinBytes (returnStateByte x.returnState) (optByte (x.note.map (·.velocity))),
    (x.note.map (·.tag)).getD 0#16,
    joinBytes (optByte (x.pending.map (·.info.velocity))) (optByte (x.pending.map (·.info.note))),
    (x.pending.map (·.info.tag)).getD 0#16,
    joinBytes ((if x.gateRequest then 1#8 else 0#8) ||| (if x.gateOut then 2#8 else 0#8))
      (flagByte ((x.pending.map (·.off)).getD false)),
    lowWord x.ageStamp, highWord x.ageStamp,
    lowWord x.releaseStamp, highWord x.releaseStamp,
    lowWord x.freeSince, highWord x.freeSince,
    joinBytes x.unisonCount x.unisonIndex,
    x.changeCount ]

/-- The fields of a voice record, as `Page.writeFields` takes them: the stamps and free-since have two words
each, the byte fields of one word are written with it, and word 7 has the bits 2 to 7 that are written 0 (section
11.4, R200). The change count is the last. -/
def voiceFields : List (Nat × Bool) :=
  [(1, false), (1, false), (1, false), (1, false), (1, false), (1, false), (1, false), (1, true), (2, false),
    (2, false), (2, false), (1, false), (1, false)]

/-- The sixteen bytes of the held-note list, 0xFF beyond its length. -/
def heldByte (held : List Key) (i : Nat) : Byte :=
  match held[i]? with
  | some k => BitVec.ofNat 8 k.val
  | none => 0xFF#8

/-- The 128 edit marks as eight words, mark i in bit (i mod 16) of word floor(i/16). -/
def markWords (m : BitVec 128) : List Word :=
  (List.range 8).map fun i => (m >>> (16 * i)).setWidth 16

/-- The words 0 to 22 of a part record (section 11.5; R12). -/
def partWords (x : Part) : List Word :=
  [ x.group,
    joinBytes x.unison x.mode.code,
    joinBytes (flagByte x.sustain) (BitVec.ofNat 8 x.held.length) ]
  ++ (List.range 8).map (fun i => joinBytes (heldByte x.held (2 * i + 1)) (heldByte x.held (2 * i)))
  ++ [ x.bend.signExtend 16, x.dropped, x.progress, x.recallTicket ]
  ++ markWords x.marks

/-- The fields of the words 0 to 22 of a part record: the held-note list and the edit marks have eight words
each (section 11.5, R200). -/
def partFields : List (Nat × Bool) :=
  [(1, false), (1, false), (1, false), (8, false), (1, false), (1, false), (1, false), (1, false), (8, false)]

/-- The word number of the change count within a part record. -/
def partCountWord : Nat := 23

/-- The words 24 to 31 of a part record, written 0 each time it is written (R200). -/
def partZeros : List Word := List.replicate 8 0#16

/-- The words of a switch record (section 11.6). -/
def switchWords (x : Switch) : List Word :=
  [ joinBytes (BitVec.ofNat 8 x.stable) ((if x.raw then 1#8 else 0#8) ||| (if x.debounced then 2#8 else 0#8)),
    joinBytes x.releases x.presses ]

/-- The words 0 to 2 of a pot record, which the scanner writes (section 11.6). -/
def potWords (x : Pot) : List Word :=
  [ x.accepted.setWidth 16, x.v16, joinBytes (flagByte x.valid) x.changeCount ]

/-- The word 3 of a pot record, which the router writes (section 11.6). -/
def pickupWord (x : Pot) : Word := joinBytes 0#8 x.pickup.code

/-- The words of a tune area entry (section 11.7); the commit serial is the last. -/
def tuneWords (x : TuneRec) : List Word :=
  x.table.toList ++ [ x.drift.signExtend 16, x.health.code, x.serial ]

/-- The point word of the tune status block (R109). -/
def TunePoint.word : TunePoint → Word
  | .full k => wordOf k.val
  | .quick => 0x00FF#16

/-- The point byte of a fault log entry (R101). -/
def TunePoint.byte : TunePoint → Byte
  | .full k => BitVec.ofNat 8 k.val
  | .quick => 0xFF#8

/-- Byte `i` of the queue mirror (R83). -/
def queueByte (q : List QueueEntry) (i : Nat) : Byte :=
  match q[i]? with
  | some e => BitVec.ofNat 8 e.target.val
  | none => 0xFF#8

/-- The 32 words of the tune status block (section 11.7; R109). -/
def statusWords (t : Tune) : List Word :=
  [ t.engine.code,
    (t.job.map fun j => wordOf j.target.val).getD noneWord,
    (t.job.map fun j => j.point.word).getD noneWord,
    (t.job.map fun j => wordOf j.attempt).getD noneWord,
    (t.job.map fun j => j.code).getD 0#16,
    t.faultCount,
    wordOf t.nextIndex.val,
    (t.firstFault.map fun i => wordOf i.val).getD noneWord ]
  ++ (List.range 24).map fun i => joinBytes (queueByte t.queue (2 * i + 1)) (queueByte t.queue (2 * i))

/-- The words of a fault log entry (section 11.7; R101). -/
def faultWords (k : FaultKind) (target : TargetIx) (point : TunePoint) (attempt : Nat) (code : Word)
    (count : BitVec 32) (fatal : Bool) (time : Long) : List Word :=
  [ joinBytes (BitVec.ofNat 8 target.val) k.code,
    joinBytes (BitVec.ofNat 8 attempt) point.byte,
    code,
    lowWord count, highWord count,
    joinBytes 0#8 (flagByte fatal),
    lowWord time,
    0#16 ]

end Sys2Proof.Machine
end

