-- ==== Sys2Proof/Machine/Params.lean ====
section
/-! DEFINITION. Parameters: kinds, stepped decoding, canonical values, defaults and decoded quantities
(R47, R112 to R115). -/

namespace Sys2Proof.Machine

/-! ### Indexes of the named parameters (R112) -/

def pDetuneA : ParamIx := 0
def pDetuneB : ParamIx := 1
def pIntervalB : ParamIx := 2
def pCutoff : ParamIx := 3
def pKeytrack : ParamIx := 4
def pGlideTime : ParamIx := 5
def pUnisonSpread : ParamIx := 6
def pBendRange : ParamIx := 7
def pGlideMode : ParamIx := 8
def pPartMode : ParamIx := 9
def pUnisonCount : ParamIx := 10
def pLegato : ParamIx := 11
def pTranspose : ParamIx := 12
def pReleaseWindow : ParamIx := 13
def pVelocityFloor : ParamIx := 14
def pDampTime : ParamIx := 15

/-- The number of steps of a stepped parameter, `none` for a continuous one (R112). -/
def paramSteps (i : ParamIx) : Option Nat :=
  if i = pIntervalB then some 49
  else if i = pBendRange then some 25
  else if i = pGlideMode then some 2
  else if i = pPartMode then some 4
  else if i = pUnisonCount then some 5
  else if i = pLegato then some 2
  else if i = pTranspose then some 49
  else none

/-- Stepped decoding (R113). -/
def stepOf (n : Nat) (v : Word) : Nat := min (v.toNat * n / 65536) (n - 1)

/-- The canonical value of step `s` of `n`: ceil(s·65536/n) (R114). -/
def canonical (n s : Nat) : Word := wordOf ((s * 65536 + (n - 1)) / n)

/-- The live value of parameter `i` after either reset (R115). -/
def paramDefault (i : ParamIx) : Word :=
  if i = pDetuneA then 32768#16
  else if i = pDetuneB then 32768#16
  else if i = pIntervalB then 32100#16
  else if i = pBendRange then 5243#16
  else if i = pTranspose then 32100#16
  else 0#16

/-- A live set after either reset (R115). -/
def defaultSet : Vector Word 128 := Vector.ofFn paramDefault

/-! ### Decoded quantities (R47) -/

/-- det = (v − 32768) >> 7, an arithmetic shift (R55), in ps. -/
def decodeDetune (v : Word) : Int := Int.fdiv ((v.toNat : Int) - 32768) 128

/-- INTERVAL_B and TRANSPOSE: step s of 49 gives s − 24 semitones. -/
def decodeSemitones (v : Word) : Int := (stepOf 49 v : Int) - 24

/-- CUTOFF base, 0…32767 ps (R58). -/
def decodeCutoff (v : Word) : Nat := v.toNat / 2

/-- GLIDE_TIME in ms per octave, 0…9999 (R50, R51). -/
def decodeGlideTime (v : Word) : Nat := v.toNat * 10000 / 65536

/-- UNISON_SPREAD, 0…255 ps (R56). -/
def decodeSpread (v : Word) : Nat := v.toNat / 256

/-- BEND_RANGE, 0…24 semitones (R52). -/
def decodeBendRange (v : Word) : Nat := stepOf 25 v

/-- GLIDE_MODE: true for ALWAYS, false for LEGATO_ONLY (R50). -/
def decodeGlideAlways (v : Word) : Bool := stepOf 2 v == 1

/-- PART_MODE (R21, R112). -/
def decodePartMode (v : Word) : PartMode :=
  match stepOf 4 v with
  | 0 => .poly
  | 1 => .monoLast
  | 2 => .monoLow
  | _ => .monoHigh

/-- UNISON_COUNT: 1, 2, 4, 8 or 16 voices (R21, R112). -/
def decodeUnison (v : Word) : Byte := BitVec.ofNat 8 (2 ^ stepOf 5 v)

/-- LEGATO (R40). -/
def decodeLegato (v : Word) : Bool := stepOf 2 v == 1

/-- RELEASE_WINDOW in ms, 0…20000 (R31). -/
def decodeWindow (v : Word) : Nat := v.toNat * 20001 / 65536

/-- DAMP_TIME in ms, 0…20 (R28). -/
def decodeDamp (v : Word) : Nat := v.toNat * 21 / 65536

/-- VELOCITY_FLOOR, 0…127 (R63). -/
def decodeVelocityFloor (v : Word) : Nat := v.toNat * 127 / 65535

end Sys2Proof.Machine
end

