-- ==== Sys2Proof/Machine/Publish.lean ====
section
/-! DEFINITION. Writing whole records into the page, and the values the blocks take at a reset
(R13, R14, R110, R154, R160, R183, R187, R188). -/

namespace Sys2Proof.Machine

/-! ### Whole records -/

def Page.writeVoice (p : Page) (v : VoiceIx) (x : Voice) : Page :=
  Page.writeWords p (voiceBase v) (voiceWords x)

/-- The change count is written last (R200). -/
def Page.writePart (p : Page) (i : PartIx) (x : Part) : Page :=
  Page.writeWord (Page.writeWords (Page.writeWords p (partBase i) (partWords x)) (partBase i + 24) partZeros)
    (partBase i + partCountWord) x.changeCount

def Page.writeSwitch (p : Page) (i : SwitchIx) (x : Switch) : Page :=
  Page.writeWords p (switchBase i) (switchWords x)

/-- The accepted value and v16, the pickup word with its high byte 0, and the word of the change count last
(R148, R200). -/
def Page.writePot (p : Page) (i : PotIx) (x : Pot) : Page :=
  Page.writeWord
    (Page.writeWord (Page.writeWords p (potBase i) [x.accepted.setWidth 16, x.v16]) (potBase i + 3) (pickupWord x))
    (potBase i + 2) (joinBytes (flagByte x.valid) x.changeCount)

def Page.writeTune (p : Page) (t : TargetIx) (x : TuneRec) : Page :=
  Page.writeWords p (tuneBase t) (tuneWords x)

def Page.writeStatus (p : Page) (t : Tune) : Page :=
  Page.writeWords p statusBase (statusWords t)

/-- Words 2 and 3 of the header (R183). -/
def Page.writeSetupError (p : Page) (h : Header) : Page :=
  Page.writeWords p (headerBase + 2) [h.setupError.code, h.setupDetail]

/-- Words 8 and 9 of the header, the low word first (R183). -/
def Page.writeTime (p : Page) (t : Long) : Page :=
  Page.writeWords p (headerBase + 8) [lowWord t, highWord t]

/-- The header as an INIT writes it: words 0 to 3 and 5 to 12 (R183), and words 13 and 18 to 31 as 0
(R200). The posted count and the LED image are the host's and are left as they are. -/
def Page.writeHeader (p : Page) (r : RunState) (h : Header) (taken : Word) (t : Long) : Page :=
  Page.writeWords
    (Page.writeWords
      (Page.writeWords p headerBase [formatTag, r.code, h.setupError.code, h.setupDetail])
      (headerBase + 5)
      [taken, h.rejected, h.streamOverruns, lowWord t, highWord t, h.lastPass, h.refreshOverruns,
        h.discarded, 0#16])
    (headerBase + 18) (List.replicate 14 0#16)

/-- Publishes every record of the blocks: voices, parts, switches, tune status block, pots and tune
area (R187 step 4, R188 step 5). -/
def Page.publishAll (p : Page) (voices : Vector Voice 16) (parts : Vector Part 4) (panel : Panel)
    (tune : Tune) : Page :=
  let p1 := (List.finRange 16).foldl (fun q v => Page.writeVoice q v voices[v]) p
  let p2 := (List.finRange 4).foldl (fun q i => Page.writePart q i parts[i]) p1
  let p3 := (List.finRange 64).foldl (fun q i => Page.writeSwitch q i panel.switches[i]) p2
  let p4 := Page.writeStatus p3 tune
  let p5 := (List.finRange 128).foldl (fun q i => Page.writePot q i panel.pots[i]) p4
  (List.finRange 48).foldl (fun q t => Page.writeTune q t tune.recs[t]) p5

/-! ### Values after a reset -/

/-- A voice record after either reset, at the part time `t` of the end of INIT (R13). -/
def resetVoice (t : Long) (out : Bool) (count : Word) : Voice where
  state := if out then .out else .free
  prev1 := .free
  prev2 := .free
  prev3 := .free
  part := none
  note := none
  pending := none
  ageStamp := 0#32
  releaseStamp := 0#32
  freeSince := t
  returnState := none
  unisonIndex := 0#8
  unisonCount := 1#8
  glide := BitVec.ofNat 31 (15360 * 65536)
  glideTarget := 15360#15
  gateRequest := false
  gapUntil := t
  gap := .passed
  pitchWritten := false
  changeCount := count
  damp := none
  window := none
  writtenA := false
  writtenB := false
  writtenF := false
  gateOut := false

/-- A part record after either reset (R14, R118, R140, R143). -/
def resetPart (count : Word) : Part where
  group := 0#16
  mode := .poly
  unison := 1#8
  held := []
  sustain := false
  bend := 0#14
  dropped := 0#16
  progress := noneWord
  recallTicket := 0#16
  marks := 0#128
  changeCount := count

/-- The header's counts after either INIT (R183). -/
def resetHeader : Header where
  setupError := .none
  setupDetail := 0#16
  rejected := 0#16
  streamOverruns := 0#16
  lastPass := 0#16
  refreshOverruns := 0#16
  discarded := 0#16

/-- The sweeper after either INIT, with the taken count it starts from (R187 step 3, R188). -/
def resetSweeper (taken : Word) (nextId : Nat) : Sweeper where
  last := 0xFFFF#16
  taken := taken
  interval := 0#16
  nextInterval := none
  pending := false
  count := 0#16
  run := .idle
  inflight := []
  nextId := nextId

/-- The refresh lines at rest: DSYNC and SHS_N high, DCLK and DDATA low (R65, R187). -/
def restLines : RefreshLines where
  dsync := true
  shsN := true
  dclk := false
  ddata := false

/-- The refresh engine after either reset (R65, R69, R79): the hold outputs keep their voltages. -/
def resetRefresh (dac : Option Word) (holds : Vector (Option Word) 256) : Refresh where
  map := []
  period := 0#16
  next := none
  timer := .stopped
  turn := none
  overrun := false
  address := 0#8
  lines := restLines
  dac := dac
  holds := holds

/-- The nominal table T[k] = 8192 + 6144·k (R80). -/
def nominalTable : Vector Word 9 := Vector.ofFn fun k => wordOf (8192 + 6144 * k.val)

/-- A target's record at power-on (R81). -/
def nominalRec : TuneRec where
  table := nominalTable
  drift := 0#8
  health := .nominal
  serial := 0#16

/-- The tune engine after either reset, around the records it then holds (R110). The idle threshold is
a setup table (R85, R188 step 4). -/
def resetTune (recs : Vector TuneRec 48) (offers : Nat) : Tune where
  recs := recs
  engine := .idle
  job := none
  queue := []
  req := none
  faultCount := 0#16
  nextIndex := 0
  firstFault := none
  offers := offers
  select := 0
  idleThreshold := 0#16

/-- The patch engine after either reset (R115, R124, R130, R143). -/
def resetPatch : Patch where
  live := Vector.replicate 4 defaultSet
  contexts := Vector.replicate 4 none
  recalls := []
  captureCounter := 0#16

def unusedPot : PotDesc where
  kind := .unused
  mask := 0#4
  pass := false
  param := 0
  hysteresis := 0#4
  window := 0#4

def unusedSwitch : SwitchDesc where
  kind := .unused
  mask := 0#4
  pressReport := false
  releaseReport := false
  param := 0

/-- Every descriptor UNUSED (R166). -/
def resetRouter : Router where
  pots := Vector.replicate 128 unusedPot
  switches := Vector.replicate 64 unusedSwitch
  leds := Vector.replicate 64 .unused

/-- A pot after either reset, with the change count it keeps (R154). -/
def resetPot (count : Byte) : Pot where
  history := []
  prevV16 := 0#16
  valid := false
  accepted := 0#12
  v16 := 0#16
  changeCount := count
  pickup := .unrouted

/-- A switch after either reset, with the counts it keeps (R160). -/
def resetSwitch (presses releases : Byte) : Switch where
  raw := false
  stable := 0
  debounced := false
  presses := presses
  releases := releases

/-- The panel scanner after either reset, around the records it then holds (R149, R154, R160, R163). -/
def resetPanel (pots : Vector Pot 128) (switches : Vector Switch 64) (scanning : Bool) : Panel where
  pots := pots
  potPeriod := none
  nextPeriod := none
  potTimer := .stopped
  conversion := none
  potSelect := 0#4
  adcInput := 0
  switches := switches
  debounce := 0
  switchRow := 0
  scanning := scanning
  ledNext := 0
  ledRow := none
  ledColumns := 0#8

end Sys2Proof.Machine
end

