-- ==== Sys2Proof/Machine/State.lean ====
section
/-! DEFINITION. The state of the 1640 and its value after a power-on reset. Plain data; every register,
buffer, timer, count and output the specification gives the part, and the queue of the commands that
are waiting. -/

namespace Sys2Proof.Machine

/-- The whole machine. -/
structure State where
  /-- The commands that are waiting, the first to be taken first (the model's own). -/
  pending : List Instr
  /-- The common page (R180). -/
  page : Page
  /-- Part time in ms (R183). -/
  time : Long
  port : Port
  header : Header
  sweeper : Sweeper
  /-- The voice table (R1). -/
  voices : Vector Voice 16
  /-- The part records (R9). -/
  parts : Vector Part 4
  /-- Event sequence counter (R4). -/
  sequence : Long
  refresh : Refresh
  tune : Tune
  patch : Patch
  router : Router
  panel : Panel
  deriving DecidableEq, Repr

/-- Why the machine would stop with a fault. There is no reason: the specification gives every command
an outcome in every state, so no meaning of this model answers with a fault, and the type has no
constructor. That is safe: no run is cut short by it. -/
inductive Fault
  deriving DecidableEq, Repr

/-- Why the model would refuse a command. -/
inductive Refusal where
  /-- Raised only by an arm of `exec` whose command has no meaning yet; no arm does. Safe: a refused
  command has no next state about which anything could be claimed. -/
  | notModelled (mnemonic : String)
  deriving DecidableEq, Repr

/-- The part when a power-on INIT has ended, with the codes its hold outputs were last strobed with and
the code on the DAC, which no reset touches (R79, R187). The model's own count of takes and soft resets is not the
part's and goes on, so that soft resets of different power cycles do not share a free value (log entry 24). -/
def State.powerOn (pending : List Instr) (nextId : Nat) (dac : Option Word) (holds : Vector (Option Word) 256) :
    State :=
  let voices : Vector Voice 16 := Vector.replicate 16 (resetVoice 0#32 false 0#16)
  let parts : Vector Part 4 := Vector.replicate 4 (resetPart 0#16)
  let panel : Panel :=
    resetPanel (Vector.replicate 128 (resetPot 0#8)) (Vector.replicate 64 (resetSwitch 0#8 0#8)) true
  let tune : Tune := resetTune (Vector.replicate 48 nominalRec) 0
  { pending := pending
    page := Page.writeHeader (Page.publishAll [] voices parts panel tune) .setup resetHeader 0#16 0#32
    time := 0#32
    port :=
      { run := .setup, loaded := false, attn := 0x80#8, attnEnable := 0#8, attnPulse := false,
        attnLine := false }
    header := resetHeader
    sweeper := resetSweeper 0#16 nextId
    voices := voices
    parts := parts
    sequence := 0#32
    refresh := resetRefresh dac holds
    tune := tune
    patch := resetPatch
    router := resetRouter
    panel := panel }

/-- The machine right after a power-on reset: SETUP, with STATE set, nothing loaded and no command
waiting (R187). -/
def State.reset : State := State.powerOn [] 0 none (Vector.replicate 256 none)

end Sys2Proof.Machine
end

