-- ==== Sys2Proof/Machine/Flags.lean ====
section
/-! DEFINITION. Attention causes, the ATTN output, and what a host read of the four registers returns
(R182, R184 to R186; section 11.10). -/

namespace Sys2Proof.Machine

/-! The bits of ATTN (section 11.10). -/

def causeSlot : Byte := 0x01#8
def causeStream : Byte := 0x02#8
def causeControl : Byte := 0x04#8
def causeSwitch : Byte := 0x08#8
def causeVoice : Byte := 0x10#8
def causeTune : Byte := 0x20#8
def causeRefresh : Byte := 0x40#8
def causeState : Byte := 0x80#8

/-- The level rule: active while at least one cause is both set and enabled (R185). -/
def Port.levelLine (p : Port) : Bool := (p.attn &&& p.attnEnable) != 0#8

/-- A block sets the cause `c` (R184). In level mode the line follows. In pulse mode a pulse begins, or
is lengthened, when the cause is enabled and goes from clear to set (R185). -/
def Port.setCause (c : Byte) (p : Port) : Port :=
  let q := { p with attn := p.attn ||| c }
  { q with
    attnLine :=
      if q.attnPulse then p.attnLine || ((p.attn &&& c) == 0#8 && (c &&& p.attnEnable) != 0#8)
      else q.levelLine }

/-- The host clears the causes whose bits in `m` are 1 (R184); a running pulse is not cut short. -/
def Port.clearCauses (m : Byte) (p : Port) : Port :=
  let q := { p with attn := p.attn &&& ~~~m }
  { q with attnLine := if q.attnPulse then p.attnLine else q.levelLine }

/-- The host writes ATTNEN whole: bits 0 to 7 the enables, bit 15 the mode (R185). A write that keeps
pulse mode leaves a running pulse alone and starts none; one that changes level to pulse makes the line
inactive; one that leaves the part in level mode drives the line by the level rule. -/
def Port.writeEnable (v : Word) (p : Port) : Port :=
  let q := { p with attnEnable := lowByte v, attnPulse := v.getLsbD 15 }
  { q with attnLine := if q.attnPulse then p.attnPulse && p.attnLine else q.levelLine }

/-- The 2 µs of the running pulse are over (R185). -/
def Port.endPulse (p : Port) : Port :=
  if p.attnPulse then { p with attnLine := false } else p

/-- A block sets an attention cause. -/
def setCause (c : Byte) (s : State) : State := { s with port := s.port.setCause c }

/-! ### Register reads -/

/-- What a read of PSTAT returns (R186). -/
def readPstat (s : State) : Word :=
  s.port.run.code ||| (if s.port.loaded then 0x04#16 else 0#16)
    ||| (if s.tune.req.isSome then 0x08#16 else 0#16)
    ||| (if s.refresh.overrun then 0x10#16 else 0#16)
    ||| (if s.sweeper.pending then 0x20#16 else 0#16)

/-- What a read of ATTN returns. -/
def readAttn (s : State) : Word := s.port.attn.setWidth 16

/-- What a read of ATTNEN returns: bits 8 to 14 read 0 (R185). -/
def readAttnen (s : State) : Word :=
  joinBytes (if s.port.attnPulse then 0x80#8 else 0#8) s.port.attnEnable

/-- What a read of SWEEP returns (R191). -/
def readSweep (s : State) : Word := s.sweeper.count

/-- The register that A2 and A1 select; A3–A13 are not decoded (R182). -/
def readRegister (a2 a1 : Bool) (s : State) : Word :=
  match a2, a1 with
  | false, false => readPstat s
  | false, true => readAttn s
  | true, false => readAttnen s
  | true, true => readSweep s

end Sys2Proof.Machine
end

