-- ==== Sys2Proof/Machine/Operands.lean ====
section
/-! DEFINITION. What the part takes from the words the host writes: stream entries, request slots, patch
frames, the layout and timing block, CV map entries and control descriptors (R19, R129, R166, R167,
R198, R201; sections 11.2, 11.3, 11.8 and 11.9). Bits and bytes that the layouts do not assign are
ignored (R201). -/

namespace Sys2Proof.Machine

/-! ### Note stream entries (section 11.3) -/

/-- A stream entry as the allocator reads it (R19). -/
structure StreamEntry where
  kind : Byte
  part : Byte
  note : Byte
  velocity : Byte
  bend : Word
  tag : Word
  deriving DecidableEq, Repr

/-- Entry `i` of the note stream, read whole (R193). -/
def readEntry (p : Page) (i : Fin 128) : StreamEntry :=
  let w0 := Page.readWord p (streamBase i)
  let w1 := Page.readWord p (streamBase i + 1)
  { kind := lowByte w0, part := highByte w0, note := lowByte w1, velocity := highByte w1,
    bend := Page.readWord p (streamBase i + 2), tag := Page.readWord p (streamBase i + 3) }

/-! Stream kinds (section 11.11). -/
def kindNop : Byte := 0#8
def kindNoteOn : Byte := 1#8
def kindNoteOff : Byte := 2#8
def kindHoldOn : Byte := 3#8
def kindHoldOff : Byte := 4#8
def kindBend : Byte := 5#8
def kindAllOff : Byte := 6#8

/-- The kind byte is in the stream kind table. -/
def knownKind (k : Byte) : Bool := k.toNat ≤ 6

/-- The parts a part byte 0–3 names; `none` outside the allowed set of NOTE_ON and NOTE_OFF (R19). -/
def onePart (b : Byte) : Option PartIx :=
  if h : b.toNat < 4 then some ⟨b.toNat, h⟩ else none

/-- The parts a part byte 0–3 or 0xFF names, in order; `none` outside the allowed set (R19). -/
def someParts (b : Byte) : Option (List PartIx) :=
  if b = 0xFF#8 then some (List.finRange 4) else (onePart b).map fun p => [p]

/-- A note or velocity byte above 127 is taken as 127 (R20). -/
def clampKey (b : Byte) : Key := ⟨min b.toNat 127, by omega⟩

/-- A bend word taken as −8192…8191 (R20). -/
def clampBend (w : Word) : BitVec 14 := BitVec.ofInt 14 (clampInt (-8192) 8191 w.toInt)

/-! ### Request slots (section 11.2) -/

def slotState (p : Page) (i : SlotIx) : Word := Page.readWord p (slotBase i)
def slotTicket (p : Page) (i : SlotIx) : Word := Page.readWord p (slotBase i + 1)
def slotKind (p : Page) (i : SlotIx) : Word := Page.readWord p (slotBase i + 2)

/-- The ten argument words of a slot. -/
def slotArgs (p : Page) (i : SlotIx) : List Word := Page.readWords p (slotBase i + 3) 10

/-- Argument word w`i`. -/
def argAt (args : List Word) (i : Nat) : Word := args.getD i 0#16

/-! Request kinds (section 11.11). -/
def reqSetupLoad : Word := 1#16
def reqLayout : Word := 2#16
def reqParamWrite : Word := 3#16
def reqRecall : Word := 4#16
def reqCapture : Word := 5#16
def reqRoute : Word := 6#16
def reqTune : Word := 7#16
def reqTuneAbort : Word := 8#16
def reqTableImport : Word := 9#16
def reqVoiceService : Word := 10#16

/-- The kind word is in the request kind table (R196). -/
def knownRequest (k : Word) : Bool := 1 ≤ k.toNat && k.toNat ≤ 10

/-- A 48-bit target mask of three words, the low one first. -/
def targetMask (w0 w1 w2 : Word) : BitVec 48 := w2 ++ w1 ++ w0

/-- The parts a part mask names by its bits 0 to 3 alone (R201). -/
def maskParts {w : Nat} (m : BitVec w) : List PartIx := setBits 4 m

/-! ### Patch frames (section 11.8) -/

def frameParams (p : Page) (f : Fin 4) : Vector Word 128 :=
  Vector.ofFn fun i => Page.readWord p (frameBase f + 4 + i.val)

/-- The sum of the 128 parameter words, modulo 65536 (R122). -/
def frameSum (v : Vector Word 128) : Word := v.toList.foldl (· + ·) 0#16

/-! ### The layout and timing block (section 11.9) -/

def layoutWord (p : Page) (i : Nat) : Word := Page.readWord p (layoutBase + i)

/-! ### CV map entries (section 11.9; R64) -/

def slotKindOf (b : Byte) : Option SlotKind :=
  match b.toNat with
  | 0 => some .pitchA
  | 1 => some .pitchB
  | 2 => some .cutoff
  | 3 => some .level
  | 4 => some .velocity
  | _ => none

/-- An owner 0…15, or for LEVEL also 0x80…0x83. -/
def ownerOf (k : SlotKind) (b : Byte) : Option Owner :=
  if h : b.toNat < 16 then some (.voice ⟨b.toNat, h⟩)
  else if h : k = .level ∧ 0x80 ≤ b.toNat ∧ b.toNat < 0x84 then
    some (.part ⟨b.toNat - 0x80, by omega⟩)
  else none

/-- A parameter index byte of 128 or more is refused (R201). -/
def paramOf (b : Byte) : Option ParamIx :=
  if h : b.toNat < 128 then some ⟨b.toNat, h⟩ else none

/-- Entry `i` of the CV map setup area, checked on its own (R198 check 2): `none` where it fails. -/
def readMapEntry (p : Page) (i : Nat) : Option CvSlot :=
  let w0 := Page.readWord p (mapBase i)
  let w1 := Page.readWord p (mapBase i + 1)
  let low := Page.readWord p (mapBase i + 3)
  let high := Page.readWord p (mapBase i + 4)
  let code := Page.readWord p (mapBase i + 5)
  let flags := highByte w0
  match slotKindOf (lowByte w0) with
  | none => none
  | some k =>
    match ownerOf k (lowByte w1), (if k = .level then paramOf (highByte w1) else some 0) with
    | some o, some q =>
      if low < high ∧ (flags.getLsbD 1 = true → low ≤ code ∧ code ≤ high) then
        some
          { kind := k, longDwell := flags.getLsbD 0, owner := o, param := q,
            address := lowByte (Page.readWord p (mapBase i + 2)), low := low, high := high,
            tuneCode := if flags.getLsbD 1 then some code else none }
      else none
    | _, _ => none

/-- The place j of a pitch kind among a voice's targets (R64). -/
def SlotKind.pitchIndex : SlotKind → Option (Fin 3)
  | .pitchA => some 0
  | .pitchB => some 1
  | .cutoff => some 2
  | .level => none
  | .velocity => none

/-- The checks of a map entry against the earlier ones: its DAC address is not used by one, and its
pitch kind has not been given to its owner by one (R198 check 2). -/
def clashes (earlier : List CvSlot) (x : CvSlot) : Bool :=
  earlier.any fun y =>
    y.address == x.address || (x.kind.pitchIndex.isSome && y.kind == x.kind && y.owner == x.owner)

/-! ### Control descriptors (section 11.9; R166 to R168) -/

/-- Pot descriptor `i` as the page holds it: `none` where R168 refuses it. -/
def readPotDesc (p : Page) (i : PotIx) : Option PotDesc :=
  let w0 := Page.readWord p (descBase i.val)
  let w1 := Page.readWord p (descBase i.val + 1)
  let mask : BitVec 4 := (highByte w0).setWidth 4
  let pass := (highByte w0).getLsbD 7
  let hyst : BitVec 4 := (highByte w1).setWidth 4
  let win : BitVec 4 := (highByte w1 >>> 4).setWidth 4
  match (lowByte w0).toNat with
  | 0 => some unusedPot
  | 1 => if hyst = 0#4 then none else some { unusedPot with kind := .report, hysteresis := hyst }
  | 2 =>
    match paramOf (lowByte w1) with
    | some q =>
      if hyst = 0#4 ∨ mask = 0#4 then none
      else some { kind := .param, mask := mask, pass := pass, param := q, hysteresis := hyst, window := win }
    | none => none
  | 3 =>
    if hyst = 0#4 ∨ mask = 0#4 then none
    else some { unusedPot with kind := .bend, mask := mask, hysteresis := hyst, window := win }
  | _ => none

/-- Switch descriptor 128 + `i` as the page holds it: `none` where R168 refuses it. -/
def readSwitchDesc (p : Page) (i : SwitchIx) : Option SwitchDesc :=
  let w0 := Page.readWord p (descBase (128 + i.val))
  let w1 := Page.readWord p (descBase (128 + i.val) + 1)
  let mask : BitVec 4 := (highByte w0).setWidth 4
  let press := (highByte w0).getLsbD 4
  let release := (highByte w0).getLsbD 5
  let writer (k : SwitchKind) : Option SwitchDesc :=
    match paramOf (lowByte w1) with
    | some q =>
      if mask = 0#4 then none
      else some { kind := k, mask := mask, pressReport := press, releaseReport := release, param := q }
    | none => none
  match (lowByte w0).toNat with
  | 0 => some unusedSwitch
  | 1 => some { unusedSwitch with kind := .report, pressReport := press, releaseReport := release }
  | 2 => writer .toggle
  | 3 => writer .momentary
  | 4 => writer .step
  | 5 =>
    if mask = 0#4 then none
    else some { unusedSwitch with kind := .sustain, mask := mask, pressReport := press, releaseReport := release }
  | _ => none

/-- LED descriptor 192 + `i` as the page holds it: `none` where R168 refuses it. -/
def readLedDesc (p : Page) (i : LedIx) : Option LedDesc :=
  let source := lowByte (Page.readWord p (descBase (192 + i.val)))
  let idx := (lowByte (Page.readWord p (descBase (192 + i.val) + 1))).toNat
  match source.toNat with
  | 0 => some .unused
  | 1 => if h : idx < 64 then some (.image ⟨idx, h⟩) else none
  | 2 => if h : idx < 16 then some (.gate ⟨idx, h⟩) else none
  | 3 => if h : idx < 128 then some (.detached ⟨idx, h⟩) else none
  | 4 => if h : idx < 16 then some (.tuning ⟨idx, h⟩) else none
  | _ => none

/-- A descriptor of any of the three classes. -/
inductive AnyDesc where
  | pot (i : PotIx) (d : PotDesc)
  | switch (i : SwitchIx) (d : SwitchDesc)
  | led (i : LedIx) (d : LedDesc)
  deriving DecidableEq, Repr

/-- Descriptor `d`, 0…255, as the page holds it: `none` where R168 refuses it. -/
def readDesc (p : Page) (d : Fin 256) : Option AnyDesc :=
  if h : d.val < 128 then (readPotDesc p ⟨d.val, h⟩).map (.pot ⟨d.val, h⟩)
  else if h : d.val < 192 then
    (readSwitchDesc p ⟨d.val - 128, by omega⟩).map (.switch ⟨d.val - 128, by omega⟩)
  else (readLedDesc p ⟨d.val - 192, by omega⟩).map (.led ⟨d.val - 192, by omega⟩)

/-- The lowest descriptor of a range that R168 refuses. -/
def firstBadDesc (p : Page) (ds : List (Fin 256)) : Option (Fin 256) :=
  ds.find? fun d => (readDesc p d).isNone

/-- The descriptors `first` to `first + count − 1`. -/
def descRange (first count : Nat) : List (Fin 256) :=
  (List.finRange 256).filter fun d => first ≤ d.val && d.val < first + count

end Sys2Proof.Machine
end

