-- ==== Sys2Proof/Machine/Pitch.lean ====
section
/-! DEFINITION. Pitch and control-voltage arithmetic: glide, pitch composition, table lookup and the code
of every slot (chapter 3), and the code a slot of a tuning voice carries (R70 to R72). Sums and products
are exact integers; each division names its rounding. -/

namespace Sys2Proof.Machine

/-! ### Glide (R48 to R51) -/

/-- A pitch clamped to 0…32767 ps (R45). -/
def clampPitch (x : Int) : Nat := (clampInt 0 32767 x).toNat

/-- g* for note `n` under the transpose `tr` in semitones (R49). -/
def glideTargetOf (n : Key) (tr : Int) : BitVec 15 := BitVec.ofNat 15 (clampPitch (256 * ((n.val : Int) + tr)))

/-- G at the target with fraction 0. -/
def atTarget (g : BitVec 15) : BitVec 31 := BitVec.ofNat 31 (g.toNat * 65536)

/-- The step size S for `g` ms per octave, in units of 1/65536 ps (R51). -/
def glideStep (g : Nat) : Nat := 201326592 / g

/-- One glide step of G toward its target; `g` is `none` for a voice with no part (R51). -/
def stepGlide (g : Option Nat) (x : Voice) : Voice :=
  let here := x.glide.toNat
  let there := (atTarget x.glideTarget).toNat
  let d := if here ≤ there then there - here else here - there
  match g with
  | none => { x with glide := atTarget x.glideTarget }
  | some g =>
    if g = 0 ∨ d ≤ glideStep g then { x with glide := atTarget x.glideTarget }
    else if here ≤ there then { x with glide := BitVec.ofNat 31 (here + glideStep g) }
    else { x with glide := BitVec.ofNat 31 (here - glideStep g) }

/-- A note start event of note `n`: the target is set (R49), and G jumps or is left to glide (R50).
`live` is the live set of the voice's part as it stands at the event. -/
def startGlide (live : Vector Word 128) (connected : Bool) (n : Key) (x : Voice) : Voice :=
  let target := glideTargetOf n (decodeSemitones live[pTranspose])
  let glides :=
    (connected || decodeGlideAlways live[pGlideMode]) && decodeGlideTime live[pGlideTime] != 0
  { x with
    glideTarget := target
    glide := if glides then x.glide else atTarget target }

/-- gi, the integer part of G (R48). -/
def Voice.basePitch (x : Voice) : Nat := x.glide.toNat / 65536

/-! ### Pitch terms (R52 to R58) -/

/-- The bend term trunc(b·r/32) (R52). -/
def bendTerm (b : Int) (r : Nat) : Int := Int.tdiv (b * r) 32

/-- The unison offset of index `i` among `k` voices with spread `s` (R56). -/
def unisonOffset (i k s : Nat) : Int :=
  if k < 2 then 0 else Int.fdiv ((2 * (i : Int) - ((k : Int) - 1)) * s) (2 * ((k : Int) - 1))

/-- N_A (R53). -/
def pitchA (gi : Nat) (bend det uni drift : Int) : Nat := clampPitch (gi + bend + det + uni + drift)

/-- N_B (R54). -/
def pitchB (gi : Nat) (interval bend det uni drift : Int) : Nat :=
  clampPitch (gi + 256 * interval + bend + det + uni + drift)

/-- N_F (R58). -/
def pitchF (cutoff : Nat) (kt : Nat) (gi : Nat) (bend drift : Int) : Nat :=
  clampPitch (cutoff + Int.fdiv ((kt : Int) * (gi + bend - 15360)) 65536 + drift)

/-! ### Table lookup (R60, R61) -/

/-- The segment k and offset f of a clamped pitch (R60). -/
def segment (n : Nat) : Fin 8 × Int :=
  let rel : Int := (n : Int) - 3072
  if rel < 0 then (0, rel)
  else if h : rel < 24576 then
    (⟨(rel / 3072).toNat, by omega⟩, rel - 3072 * (rel / 3072))
  else (7, rel - 21504)

/-- The code of a clamped pitch before the clamp to the slot's bounds (R61). -/
def lookup (t : Vector Word 9) (n : Nat) : Int :=
  let k := (segment n).1
  let f := (segment n).2
  let lo : Int := (t[k.val]'(by omega)).toNat
  let d : Int := ((t[k.val + 1]'(by omega)).toNat : Int) - lo
  lo + Int.fdiv (d * f + 1536) 3072

/-- A code clamped to a slot's bounds. -/
def clampCode (low high : Word) (x : Int) : Word :=
  BitVec.ofNat 16 (clampInt low.toNat high.toNat x).toNat

/-- The code of pitch `n` on the table `t` within the bounds (R61). -/
def pitchCode (t : Vector Word 9) (low high : Word) (n : Nat) : Word := clampCode low high (lookup t n)

/-- The park code of a target (R71). -/
def parkCode (r : TuneRec) (low high : Word) : Word :=
  pitchCode r.table low high (clampPitch (15360 + r.drift.toInt))

/-! ### Level and velocity (R62, R63) -/

/-- low + floor(v·(high − low)/65535) (R62). -/
def levelCode (low high v : Word) : Word :=
  wordOf (low.toNat + v.toNat * (high.toNat - low.toNat) / 65535)

/-- low + floor(vel′·(high − low)/127) with vel′ = max(vel, floor) (R63). -/
def velocityCode (low high : Word) (vel floor : Nat) : Word :=
  wordOf (low.toNat + max vel floor * (high.toNat - low.toNat) / 127)

/-! ### The code of a slot -/

/-- Target 3·v + j (R1). -/
def targetOf (v : VoiceIx) (j : Fin 3) : TargetIx := ⟨3 * v.val + j.val, by omega⟩

/-- The voice of target t. -/
def voiceOf (t : TargetIx) : VoiceIx := ⟨t.val / 3, by omega⟩

/-- The live set of part `p`. -/
def liveOf (s : State) (p : PartIx) : Vector Word 128 := s.patch.live[p]

/-- The clamped pitch of target 3·v + j as it stands: R53, R54 or R58, or R59 for a voice with no part. -/
def targetPitch (s : State) (v : VoiceIx) (j : Fin 3) : Nat :=
  let x := s.voices[v]
  let gi := x.basePitch
  let drift := (s.tune.recs[targetOf v j]).drift.toInt
  match x.part with
  | none => clampPitch (gi + drift)
  | some p =>
    let live := liveOf s p
    let bend := bendTerm (s.parts[p]).bend.toInt (decodeBendRange live[pBendRange])
    let uni := unisonOffset x.unisonIndex.toNat x.unisonCount.toNat (decodeSpread live[pUnisonSpread])
    match j with
    | 0 => pitchA gi bend (decodeDetune live[pDetuneA]) uni drift
    | 1 => pitchB gi (decodeSemitones live[pIntervalB]) bend (decodeDetune live[pDetuneB]) uni drift
    | 2 => pitchF (decodeCutoff live[pCutoff]) (live[pKeytrack]).toNat gi bend drift

/-- The velocity a VELOCITY slot raises (R63): `none` in FREE, TUNING and OUT. -/
def soundingVelocity (x : Voice) : Option Key :=
  match x.state with
  | .sounding | .held | .releasing | .stealing => x.note.map (·.velocity)
  | .free | .tuning | .out => none

/-- The computed code of a slot (R46, R59, R61 to R63). -/
def computedCode (s : State) (c : CvSlot) : Word :=
  match c.owner with
  | .part p => levelCode c.low c.high (liveOf s p)[c.param]
  | .voice v =>
    let x := s.voices[v]
    match c.kind.pitchIndex with
    | some j => pitchCode (s.tune.recs[targetOf v j]).table c.low c.high (targetPitch s v j)
    | none =>
      match x.part with
      | none => c.low
      | some p =>
        if c.kind = .level then levelCode c.low c.high (liveOf s p)[c.param]
        else
          match soundingVelocity x with
          | some vel =>
            velocityCode c.low c.high vel.val (decodeVelocityFloor (liveOf s p)[pVelocityFloor])
          | none => c.low

/-- The code and its source at the start of a slot's turn (R70 to R72). Every code lies within the slot's
bounds (R70); a trial code is offered within them already (R71), also after an installation that gives the
slot other bounds, where the specification leaves open how (`fitTrialCode`; DESIGN CHOICE, log entry 5). -/
def slotCode (s : State) (c : CvSlot) : Word × CodeSource :=
  match c.owner with
  | .part _ => (computedCode s c, .computed)
  | .voice v =>
    if (s.voices[v]).state = .tuning then
      match c.kind.pitchIndex with
      | some j =>
        match s.tune.job with
        | some job =>
          if job.target = targetOf v j then (clampCode c.low c.high job.code.toNat, .trial job.offer)
          else (parkCode s.tune.recs[targetOf v j] c.low c.high, .park)
        | none => (parkCode s.tune.recs[targetOf v j] c.low c.high, .park)
      | none =>
        match c.tuneCode with
        | some code => (code, .tuneCode)
        | none => (computedCode s c, .computed)
    else (computedCode s c, .computed)

end Sys2Proof.Machine
end

