-- ==== Sys2Proof/Machine/Ops.lean ====
section
/-! DEFINITION. The named operations over the state: one home for every read and write of a record, its
publication in the page, the gate rule, the stamps, the completion of a request and the outcome of a
command. -/

namespace Sys2Proof.Machine

/-- What a command answers. -/
abbrev Out := Host.Outcome State Fault Refusal

/-- A command that acts in SETUP and RUN and has no effect in INIT, where every block is held at rest
(R182, R187). -/
def whenUp (s : State) (f : State → State) : Out :=
  match s.port.run with
  | .init => .next s
  | .setup => .next (f s)
  | .run => .next (f s)

/-- The part is in RUN. -/
def State.running (s : State) : Bool := s.port.run == .run

/-! ### Page words -/

/-- The part writes one page word. -/
def State.writeWord (s : State) (w : Nat) (v : Word) : State := { s with page := Page.writeWord s.page w v }

/-- The part writes a run of page words. -/
def State.writeWords (s : State) (w : Nat) (vs : List Word) : State :=
  { s with page := Page.writeWords s.page w vs }

/-- The run state changes and is written into header word 1 (R183). -/
def State.setRun (s : State) (r : RunState) : State :=
  { s with port := { s.port with run := r }, page := Page.writeWord s.page (headerBase + 1) r.code }

/-- The setup error and its detail, kept and written into header words 2 and 3 (R183). -/
def State.setSetupError (s : State) (e : SetupError) (detail : Word) : State :=
  let h := { s.header with setupError := e, setupDetail := detail }
  { s with header := h, page := Page.writeSetupError s.page h }

/-! ### Voices -/

/-- The record of voice `v`. -/
def State.voice (s : State) (v : VoiceIx) : Voice := s.voices[v]

/-- Voice `v` holds the record `x`, nothing being published. -/
def State.setVoice (s : State) (v : VoiceIx) (x : Voice) : State := { s with voices := s.voices.set v x }

/-- Changes the record of voice `v`, nothing being published. -/
def State.modVoice (s : State) (v : VoiceIx) (f : Voice → Voice) : State := s.setVoice v (f (s.voice v))

/-- Every voice in ascending order. -/
def forVoices (f : VoiceIx → State → State) (s : State) : State :=
  (List.finRange 16).foldl (fun t v => f v t) s

/-- The gate rule (R74). -/
def Voice.gateRule (run : Bool) (x : Voice) : Bool :=
  run && x.gateRequest && (x.gap == .passed) && x.pitchWritten

/-- The gate unit re-evaluates the gate output (R74). -/
def Voice.regate (run : Bool) (x : Voice) : Voice := { x with gateOut := x.gateRule run }

/-- What the mirror of a voice shows before a publication of the record `new` that began as `old`. Where a
renumbering (R5) has published the voice in between, its change count has moved and its stamps have been
rewritten, so both are taken as differing from the new ones. -/
def Voice.shown (old new : Voice) : Voice :=
  if new.changeCount = old.changeCount then old
  else { old with ageStamp := ~~~new.ageStamp, releaseStamp := ~~~new.releaseStamp }

/-- The change count advanced by one, wrapping (R8). -/
def Voice.counted (x : Voice) : Voice := { x with changeCount := x.changeCount + 1#16 }

/-- The record of voice `v` with its gate output re-evaluated. -/
def State.regated (s : State) (v : VoiceIx) : Voice := (s.voice v).regate s.running

/-- Ends one change of voice `v`, whose record was `old` before it: the gate output follows (R74), and if
any mirrored field has changed, the changed fields are written, each whole, and then the change count,
advanced by one (R8, R76, R200). -/
def State.publishVoice (s : State) (v : VoiceIx) (old : Voice) : State :=
  if voiceWords (s.regated v) = voiceWords old then s.setVoice v (s.regated v)
  else
    { s.setVoice v (s.regated v).counted with
      page :=
        Page.writeFields s.page (voiceBase v) voiceFields (voiceWords (old.shown (s.regated v)))
          (voiceWords (s.regated v).counted) }

/-- One change of voice `v`, published. -/
def State.changeVoice (s : State) (v : VoiceIx) (f : Voice → Voice) : State :=
  (s.modVoice v f).publishVoice v (s.voice v)

/-- A move to a different state, recorded in the state history; not a change when the state is the same
(R3). -/
def Voice.moveTo (st : VoiceState) (x : Voice) : Voice :=
  if st = x.state then x
  else { x with state := st, prev1 := x.state, prev2 := x.prev1, prev3 := x.prev2 }

/-- Entering FREE sets free-since (R6). -/
def Voice.enterFree (t : Long) (x : Voice) : Voice := { x.moveTo .free with freeSince := t }

/-- SOUNDING, HELD, RELEASING or STEALING (R21). -/
def VoiceState.active : VoiceState → Bool
  | .sounding | .held | .releasing | .stealing => true
  | .free | .tuning | .out => false

/-- SOUNDING, HELD or STEALING: the states that keep a part from being idle (R21), and the mono set (R38). -/
def VoiceState.playing : VoiceState → Bool
  | .sounding | .held | .stealing => true
  | .free | .releasing | .tuning | .out => false

/-- The voices of part `p`, ascending (R10). -/
def State.voicesOf (s : State) (p : PartIx) : List VoiceIx :=
  (List.finRange 16).filter fun v => (s.voice v).part == some p

/-! ### Parts -/

/-- The record of part `p`. -/
def State.part (s : State) (p : PartIx) : Part := s.parts[p]

/-- Part `p` holds the record `x`, nothing being published. -/
def State.setPart (s : State) (p : PartIx) (x : Part) : State := { s with parts := s.parts.set p x }

/-- Changes the record of part `p`, nothing being published. -/
def State.modPart (s : State) (p : PartIx) (f : Part → Part) : State := s.setPart p (f (s.part p))

/-- The change count advanced by one, wrapping (R12). -/
def Part.counted (x : Part) : Part := { x with changeCount := x.changeCount + 1#16 }

/-- Writes the changed fields of a part record, each whole, the words that the layout marks 0 and the change
count last (R12, R200). -/
def Page.rewritePart (g : Page) (p : PartIx) (old new : Part) : Page :=
  Page.writeWord
    (Page.writeWords (Page.writeFields g (partBase p) partFields (partWords old) (partWords new)) (partBase p + 24)
      partZeros)
    (partBase p + partCountWord) new.changeCount

/-- Ends one change of part `p`, whose record was `old` before it: if any mirrored field has changed, it is
published with its change count advanced by one (R12). -/
def State.publishPart (s : State) (p : PartIx) (old : Part) : State :=
  if partWords (s.part p) = partWords old then s
  else { s.setPart p (s.part p).counted with page := Page.rewritePart s.page p old (s.part p).counted }

/-- One change of part `p`, published. -/
def State.changePart (s : State) (p : PartIx) (f : Part → Part) : State :=
  (s.modPart p f).publishPart p (s.part p)

/-- No voice of the part is in SOUNDING, HELD or STEALING (R21). -/
def State.idlePart (s : State) (p : PartIx) : Bool :=
  (s.voicesOf p).all fun v => !(s.voice v).state.playing

/-- The present live value of parameter `i` of part `p`. -/
def State.param (s : State) (p : PartIx) (i : ParamIx) : Word := (liveOf s p)[i]

/-! ### Stamps (R4, R5) -/

/-- The nonzero stamps, in voice order. -/
def liveStamps (f : Voice → Long) (s : State) : List Long :=
  ((List.finRange 16).map fun v => f (s.voice v)).filter fun t => t != 0#32

/-- The rank of a nonzero stamp among the nonzero ones, from `base` + 1 on; 0 stays 0 (R5). -/
def renumbered (base : Nat) (all : List Long) (t : Long) : Long :=
  if t = 0#32 then 0#32 else BitVec.ofNat 32 (base + 1 + (all.filter fun u => u < t).length)

/-- Renumbers every stamp and sets the counter to m (R5). -/
def renumberStamps (s : State) : State :=
  let ages := liveStamps (·.ageStamp) s
  let releases := liveStamps (·.releaseStamp) s
  let s1 := forVoices (fun v t => t.changeVoice v fun x =>
    { x with
      ageStamp := renumbered 0 ages x.ageStamp
      releaseStamp := renumbered ages.length releases x.releaseStamp }) s
  { s1 with sequence := BitVec.ofNat 32 (ages.length + releases.length) }

/-- Issues a stamp: the counter, advanced by one, after a renumbering where the counter is at its end
(R4, R5). The stamp issued is the counter's new value. -/
def issueStamp (s : State) : State :=
  let s1 := if s.sequence = 0xFFFFFFFF#32 then renumberStamps s else s
  { s1 with sequence := s1.sequence + 1#32 }

/-- Voice `v` takes an age stamp (R4). -/
def takeAge (v : VoiceIx) (s : State) : State :=
  let s1 := issueStamp s
  s1.modVoice v fun x => { x with ageStamp := s1.sequence }

/-- Voice `v` takes a release stamp (R4). -/
def takeRelease (v : VoiceIx) (s : State) : State :=
  let s1 := issueStamp s
  s1.modVoice v fun x => { x with releaseStamp := s1.sequence }

/-- Turns the gate request of voice `v` off; the voice takes a release stamp if it was on (R4, R35). -/
def dropGate (v : VoiceIx) (s : State) : State :=
  let s1 := if (s.voice v).gateRequest then takeRelease v s else s
  s1.modVoice v fun x => { x with gateRequest := false }

/-! ### The gate unit's written set (R73) -/

/-- The CV map holds the pitch slot j of voice `v` (R64). -/
def mapsPitch (map : List CvSlot) (v : VoiceIx) (j : Fin 3) : Bool :=
  map.any fun c => c.kind.pitchIndex == some j && c.owner == .voice v

/-- The written set holds the pitch slot j. -/
def Voice.written (x : Voice) (j : Fin 3) : Bool :=
  match j with
  | 0 => x.writtenA
  | 1 => x.writtenB
  | 2 => x.writtenF

/-- The pitch-written flag is set once the written set holds every mapped pitch slot (R73). -/
def Voice.settleWritten (map : List CvSlot) (v : VoiceIx) (x : Voice) : Voice :=
  if (List.finRange 3).all fun j => !mapsPitch map v j || x.written j then { x with pitchWritten := true } else x

/-- The written set is emptied. -/
def Voice.emptyWritten (x : Voice) : Voice := { x with writtenA := false, writtenB := false, writtenF := false }

/-- The written set gains the pitch slot j. -/
def Voice.addWritten (j : Fin 3) (x : Voice) : Voice :=
  match j with
  | 0 => { x with writtenA := true }
  | 1 => { x with writtenB := true }
  | 2 => { x with writtenF := true }

/-- The turn in progress, if it is that of a pitch slot of voice `v`, no longer counts (R73). -/
def staleTurn (v : VoiceIx) (s : State) : State :=
  { s with
    refresh :=
      { s.refresh with
        turn := s.refresh.turn.map fun t =>
          if t.slot.kind.pitchIndex.isSome && t.slot.owner == .voice v then { t with fresh := false } else t } }

/-- The allocator clears the pitch-written flag of voice `v`, and the gate unit empties its written set;
the flag of a voice with no mapped pitch slot is set again at once (R73). -/
def clearPitch (v : VoiceIx) (s : State) : State :=
  (staleTurn v s).modVoice v fun x =>
    ({ x with pitchWritten := false } : Voice).emptyWritten.settleWritten s.refresh.map v

/-! ### Cutting a voice (R7) -/

/-- The target states of a cut. -/
def Voice.cutTo (out : Bool) (t : Long) (x : Voice) : Voice :=
  let y := { x with note := none, pending := none, damp := none, window := none, gapUntil := t, gap := .passed }
  if out then y.moveTo .out else y.enterFree t

/-- Cuts an active voice `v` to OUT or FREE, nothing being published (R7). -/
def cutUnpublished (out : Bool) (v : VoiceIx) (s : State) : State :=
  (dropGate v s).modVoice v (Voice.cutTo out s.time)

/-- Cuts voice `v` to OUT or FREE; a voice in FREE, TUNING or OUT is passed over (R7). -/
def cutVoice (out : Bool) (v : VoiceIx) (s : State) : State :=
  if (s.voice v).state.active then (cutUnpublished out v s).publishVoice v (s.voice v) else s

/-- A retrigger gap of voice `v`: gap-until 2 ms ahead, the flag cleared, the gate request left on (R42). -/
def retrigger (v : VoiceIx) (s : State) : State :=
  (clearPitch v s).modVoice v fun x => { x with gapUntil := s.time + 2#32, gap := .running }

/-! ### Requests (R194, R197) -/

/-- The outcome of a request: result, remaining count and detail. -/
structure Completion where
  result : Word
  remaining : Word
  detail : Word
  deriving DecidableEq, Repr

/-- A request that completes OK with remaining count 0. Where the rule of the request gives no remaining count
(TABLE_IMPORT, R107; TUNE_ABORT, R106) the 0 is the model's: DESIGN CHOICE (log entry 20). -/
def Completion.ok (detail : Nat) : Completion := ⟨resOk, 0#16, wordOf detail⟩

/-- A request that is refused with remaining count 0. R196 gives that 0 for the checks of the sweeper; where a
block refuses a request its rule gives none, and the 0 is the model's: DESIGN CHOICE (log entry 20). -/
def Completion.refuse (result : Word) (detail : Nat) : Completion := ⟨result, 0#16, wordOf detail⟩

/-- The request leaves the in-flight set. -/
def Sweeper.leave (r : Inflight) (w : Sweeper) : Sweeper := { w with inflight := w.inflight.erase r }

/-- A completion is dropped and counted in header word 12 (R197). -/
def discardCompletion (s : State) : State :=
  let n := satInc s.header.discarded
  { s with
    header := { s.header with discarded := n }
    page := Page.writeWord s.page (headerBase + 12) n }

/-- The result, remaining count and detail of a slot, and its state word last, DONE for OK and FAILED for
any other result (R197). -/
def writeCompletion (i : SlotIx) (c : Completion) (s : State) : State :=
  { s with
    page :=
      Page.writeWord (Page.writeWords s.page (slotBase i + 13) [c.result, c.remaining, c.detail]) (slotBase i)
        (if c.result = resOk then slotDone else slotFailed) }

/-- A reported completion is written into the slot the request was taken from if that shows TAKEN with
the request's ticket, and SLOT is set; otherwise it is dropped and counted (R197). -/
def complete (r : Inflight) (c : Completion) (s : State) : State :=
  let s1 := { s with sweeper := s.sweeper.leave r }
  if slotState s.page r.slot = slotTaken ∧ slotTicket s.page r.slot = r.ticket then
    setCause causeSlot (writeCompletion r.slot c s1)
  else discardCompletion s1

end Sys2Proof.Machine
end

