-- ==== Sys2Proof/Machine/TuneOps.lean ====
section
/-! DEFINITION. The tune engine: the borrowing of voices, the FULL search, the QUICK check, faults, the
fault log and the end of a TUNE request (chapter 5). -/

namespace Sys2Proof.Machine

/-! ### Publishing (R82, R101, R109) -/

/-- The tune status block is rewritten (R109). -/
def publishStatus (s : State) : State := { s with page := Page.writeStatus s.page s.tune }

/-- The record of target `t`. -/
def State.target (s : State) (t : TargetIx) : TuneRec := s.tune.recs[t]

/-- Target `t` holds the record `r`, and its tune area entry is republished (R82). -/
def setTarget (t : TargetIx) (r : TuneRec) (s : State) : State :=
  { s with
    tune := { s.tune with recs := s.tune.recs.set t r }
    page := Page.writeTune s.page t r }

/-- Changes the current target's work. -/
def modJob (f : TuneJob → TuneJob) (s : State) : State :=
  { s with tune := { s.tune with job := s.tune.job.map f } }

/-- Changes the TUNE request in flight. -/
def modReq (f : TuneReq → TuneReq) (s : State) : State :=
  { s with tune := { s.tune with req := s.tune.req.map f } }

/-! ### Mapped targets and their bounds -/

/-- The place j of target 3·v + j (R80). -/
def pitchPlace (t : TargetIx) : Fin 3 := ⟨t.val % 3, by omega⟩

/-- Target `t` is mapped (R64). -/
def mapped (s : State) (t : TargetIx) : Bool := mapsPitch s.refresh.map (voiceOf t) (pitchPlace t)

/-- The pitch slot of target `t` in a map (R64). -/
def pitchSlotOf (map : List CvSlot) (t : TargetIx) : Option CvSlot :=
  map.find? fun c => c.kind.pitchIndex == some (pitchPlace t) && c.owner == .voice (voiceOf t)

/-- The bounds of the target's pitch slot; free values where the installed map has none (log entry 5). -/
def targetBounds (s : State) (t : TargetIx) : Word × Word :=
  match pitchSlotOf s.refresh.map t with
  | some c => (c.low, c.high)
  | none => (Config.unmappedLow t.val, Config.unmappedHigh t.val)

/-! ### Arithmetic of the search (R91, R92, R94, R99) -/

/-- N_exp, the expected count (R91). -/
def expectedCount : Int := 978498

/-- The error of a count, in tenths of a cent (R92). -/
def countError (n : BitVec 32) : Int :=
  clampInt (-24000) 24000 (Int.tdiv (((n.toNat : Int) - expectedCount) * 17312) expectedCount)

/-- Δ of a step with error `e` over the span `d` (R94). -/
def stepDelta (e : Int) (d : Int) : Int :=
  let raw := Int.fdiv (e * d + 6000) 12000
  let moved := if raw = 0 then (if 0 < e then 1 else if e < 0 then -1 else 0) else raw
  clampInt (-(Int.fdiv d 2)) (Int.fdiv d 2) moved

/-- The correction of a QUICK check (R99). -/
def driftStep (e : Int) : Int := Int.fdiv (32 * e + 62) 125

/-- The timeouts of the gate timeout codes, in ms (R91). -/
def timeoutMs (code : Nat) : Nat := 100 * 2 ^ code

/-- The settle time in ms: 50 at point 0 and for a QUICK check, 8 at points 1 to 8 (R90, R98). -/
def settleMs : TunePoint → Nat
  | .full k => if k.val = 0 then 50 else 8
  | .quick => 50

/-- The span D of a point (R89). -/
def pointSpan (r : TuneRec) (k : Fin 9) : Int :=
  if h : k.val = 0 then ((r.table[1]).toNat : Int) - (r.table[0]).toNat
  else ((r.table[k]).toNat : Int) - (r.table[k.val - 1]'(by omega)).toNat

/-- The initial code of an attempt at a point, clamped to the slot's bounds (R89); for a QUICK check the
park code (R98). -/
def initialCode (s : State) (j : TuneJob) : Word :=
  let r := s.target j.target
  let b := targetBounds s j.target
  match j.point with
  | .quick => parkCode r b.1 b.2
  | .full k =>
    if k.val = 0 then clampCode b.1 b.2 (r.table[0]).toNat
    else clampCode b.1 b.2 (((j.newTable.getLastD 0#16).toNat : Int) + pointSpan r k)

/-! ### Offers and attempts (R71, R89, R90) -/

/-- Makes a trial code offer of `code` and enters WAIT (R71, R89). -/
def makeOffer (code : Word) (s : State) : State :=
  let n := s.tune.offers + 1
  publishStatus
    { s with
      tune :=
        { s.tune with
          engine := .wait
          offers := n
          job := s.tune.job.map fun j =>
            { j with code := code, offer := n, firstError := none, windowOpen := false, timer := 0 } } }

/-- Begins an attempt at the current point from its initial code, with trial count 1 (R89, R95). -/
def beginAttempt (s : State) : State :=
  match s.tune.job with
  | some j => makeOffer (initialCode s j) (modJob (fun j => { j with trials := 1, lastCount := 0#32 }) s)
  | none => s

/-- Takes a queue entry: it leaves the queue, its target becomes the current target, TS0–TS5 select it
and the search of the request's mode begins (R86 steps 1, 3 and 4). -/
def takeTarget (e : QueueEntry) (s : State) : State :=
  let point := if (s.tune.req.map (·.quick)).getD false then TunePoint.quick else .full 0
  beginAttempt
    { s with
      tune :=
        { s.tune with
          queue := s.tune.queue.erase e
          select := e.target
          job := some
            { target := e.target, yields := e.yields, point := point, attempt := 1, trials := 1,
              code := 0#16, offer := 0, newTable := [], firstError := none, windowOpen := false,
              lastCount := 0#32, timer := 0 } } }

/-! ### Borrowing and returning voices (R85, R86, R88) -/

/-- The entry's voice may be borrowed now (R85). An entry whose target lost its pitch slot after the TUNE was
accepted, by an installation that was pending then (R65, R104), stays in the queue and is eligible like any other:
R80 has the engine measure mapped targets only, and no rule drops the entry. DESIGN CHOICE (log entry 5). -/
def eligible (s : State) (r : TuneReq) (e : QueueEntry) : Bool :=
  let x := s.voice (voiceOf e.target)
  match x.state with
  | .out => true
  | .free => !r.idleSched || decide (s.tune.idleThreshold.toNat ≤ (s.time - x.freeSince).toNat)
  | .sounding | .held | .releasing | .stealing | .tuning => false

/-- The allocator reserves a FREE or OUT voice for the tune engine (R86 step 2). -/
def reserveVoice (v : VoiceIx) (s : State) : State :=
  s.changeVoice v fun x =>
    ({ x with returnState := some (if x.state = .out then .out else .free) } : Voice).moveTo .tuning

/-- Every target of the voice that the request names has committed in it (R88). -/
def allCommitted (r : TuneReq) (v : VoiceIx) : Bool :=
  (List.finRange 3).all fun j =>
    !(r.named.getLsbD (targetOf v j).val) || r.committed.getLsbD (targetOf v j).val

/-- One of the voice's three targets has health FAILED (R13, R88). -/
def hasFailed (recs : Vector TuneRec 48) (v : VoiceIx) : Bool :=
  (List.finRange 3).any fun j => (recs[targetOf v j]).health == .failed

/-- Where a returned voice goes (R88). -/
def returnsFree (s : State) (v : VoiceIx) : Bool :=
  match (s.voice v).returnState with
  | some .out =>
    match s.tune.req with
    | some r => allCommitted r v && !hasFailed s.tune.recs v
    | none => false
  | _ => true

/-- The allocator returns a TUNING voice (R88). -/
def returnVoice (v : VoiceIx) (s : State) : State :=
  if (s.voice v).state = .tuning then
    let free := returnsFree s v
    s.changeVoice v fun x =>
      let y := { x with returnState := none }
      if free then y.enterFree s.time else y.moveTo .out
  else s

/-- The engine abandons the current target, with its timers, window, partial table and offer, and is IDLE
(R84, R103, R106). -/
def dropJob (s : State) : State :=
  publishStatus { s with tune := { s.tune with engine := .idle, job := none } }

/-- How many of the request's targets are not committed (R105). -/
def notCommitted (r : TuneReq) : Nat := popCount (r.named &&& ~~~r.committed)

/-- When the queue is empty and no target is current, the TUNE request in flight completes (R105). -/
def finishTune (s : State) : State :=
  match s.tune.req with
  | none => s
  | some r =>
    if s.tune.job.isNone && s.tune.queue.isEmpty then
      let n := notCommitted r
      complete r.req
        (if n = 0 then Completion.ok 0 else ⟨resPartial, wordOf n, wordOf (popCount r.fatal)⟩)
        { s with tune := { s.tune with req := none } }
    else s

/-- The current target has ended (R88): the engine goes on with the voice's next queued target, or the
voice is returned, the engine is IDLE, and the request completes if that was its last. -/
def endTarget (s : State) : State :=
  match s.tune.job with
  | none => s
  | some j =>
    let v := voiceOf j.target
    match s.tune.queue.find? fun e => voiceOf e.target == v with
    | some e => takeTarget e s
    | none => finishTune (returnVoice v (dropJob s))

/-! ### Faults (R100 to R102) -/

/-- Writes one fault log entry around the held first fault (R101). -/
def logFault (k : FaultKind) (j : TuneJob) (fatal : Bool) (s : State) : State :=
  let i := if some s.tune.nextIndex = s.tune.firstFault then s.tune.nextIndex + 1 else s.tune.nextIndex
  let count := if k = .noSignal then 0#32 else j.lastCount
  publishStatus
    { s with
      tune :=
        { s.tune with
          nextIndex := i + 1
          firstFault := some (s.tune.firstFault.getD i)
          faultCount := satInc s.tune.faultCount }
      page :=
        Page.writeWords s.page (faultBase i) (faultWords k j.target j.point j.attempt j.code count fatal s.time) }

/-- Steps 1 to 5 of a target's failure with kind `k`, up to its end (R100). -/
def recordFailure (k : FaultKind) (j : TuneJob) (s : State) : State :=
  match s.tune.req with
  | none => s
  | some r =>
    let bit := k.code.toNat
    let fatal := k != .yielded && r.severityMask.getLsbD bit
    let t := s.target j.target
    let s1 := setTarget j.target { t with health := if fatal then .failed else .stale } s
    let s2 :=
      if fatal then
        setCause causeVoice
          (modReq (fun r => { r with fatal := r.fatal ||| bitMask 48 j.target.val })
            (s1.changeVoice (voiceOf j.target) fun x => { x with returnState := some .out }))
      else s1
    if r.faultMask.getLsbD bit then s2 else setCause causeTune (logFault k j fatal s2)

/-- The current target fails with kind `k` and ends (R100, R88). -/
def failTarget (k : FaultKind) (s : State) : State :=
  match s.tune.job with
  | some j => endTarget (recordFailure k j s)
  | none => s

/-- An attempt fails with kind `k`: it is retried while its number is below 3 (R95). -/
def failAttempt (k : FaultKind) (s : State) : State :=
  match s.tune.job with
  | some j =>
    if j.attempt < 3 then beginAttempt (modJob (fun j => { j with attempt := j.attempt + 1 }) s)
    else failTarget k s
  | none => s

/-! ### Evaluating a measurement (R92 to R99) -/

/-- The current target has committed, in the request's record (R105). -/
def noteCommitted (t : TargetIx) (s : State) : State :=
  modReq (fun r => { r with committed := r.committed ||| bitMask 48 t.val }) s

/-- The full table is committed with drift 0, health TUNED and the serial advanced (R97). -/
def commitTable (j : TuneJob) (points : List Word) (s : State) : State :=
  let t := s.target j.target
  endTarget
    (noteCommitted j.target
      (setTarget j.target
        { table := Vector.ofFn fun k => points.getD k.val 0#16
          drift := 0#8
          health := .tuned
          serial := t.serial + 1#16 } s))

/-- Point `k` is done at the current trial code (R96). -/
def pointDone (j : TuneJob) (k : Fin 9) (s : State) : State :=
  if k.val ≠ 0 ∧ j.code ≤ j.newTable.getLastD 0#16 then failTarget .notMonotonic s
  else
    let points := j.newTable ++ [j.code]
    if h : k.val < 8 then
      beginAttempt
        (modJob (fun j => { j with point := .full ⟨k.val + 1, by omega⟩, attempt := 1, newTable := points }) s)
    else commitTable j points s

/-- A step from the current trial code with error `e` (R94). -/
def stepCode (j : TuneJob) (k : Fin 9) (e : Int) (s : State) : State :=
  let b := targetBounds s j.target
  let delta := stepDelta e (pointSpan (s.target j.target) k)
  if (j.code = b.2 ∧ 0 < delta) ∨ (j.code = b.1 ∧ delta < 0) then failTarget .outOfRange s
  else if j.trials = 6 then failAttempt .noConverge s
  else
    makeOffer (clampCode b.1 b.2 ((j.code.toNat : Int) + delta))
      (modJob (fun j => { j with trials := j.trials + 1 }) s)

/-- The tolerance of the TUNE request in flight (R93). -/
def toleranceOf (s : State) : Int := (s.tune.req.map fun r => (r.tolerance : Int)).getD 0

/-- The gate timeout of the TUNE request in flight, in ms (R91). -/
def gateTimeoutOf (s : State) : Nat := (s.tune.req.map fun r => timeoutMs r.timeoutCode).getD 0

/-- The confirm measurement at the same code: a new window under a new gate timeout (R93). -/
def beginConfirm (e : Int) (s : State) : State :=
  publishStatus
    (modJob (fun j => { j with firstError := some e, windowOpen := false, timer := gateTimeoutOf s }) s)

/-- A FULL measurement with error `e` at point `k` (R93). -/
def evaluateFull (j : TuneJob) (k : Fin 9) (e : Int) (s : State) : State :=
  let tol := toleranceOf s
  match j.firstError with
  | none => if (e.natAbs : Int) ≤ tol then beginConfirm e s else stepCode j k e s
  | some e1 =>
    if (e.natAbs : Int) ≤ tol then pointDone j k s
    else if 4 * tol < ((e1 - e).natAbs : Int) then failAttempt .unstable s
    else stepCode j k e s

/-- A QUICK measurement with error `e` (R99). -/
def evaluateQuick (j : TuneJob) (e : Int) (s : State) : State :=
  let t := s.target j.target
  let o := t.drift.toInt + driftStep e
  if -128 ≤ o ∧ o ≤ 127 then
    endTarget (noteCommitted j.target (setTarget j.target { t with drift := BitVec.ofInt 8 o } s))
  else failTarget .outOfRange s

/-- The window of the current measurement closes with count `n` (R91). -/
def closeWindow (n : BitVec 32) (s : State) : State :=
  let s1 := publishStatus (modJob (fun j => { j with windowOpen := false, lastCount := n }) s)
  match s1.tune.job with
  | none => s
  | some j =>
    match j.point with
    | .full k => evaluateFull j k (countError n) s1
    | .quick => evaluateQuick j (countError n) s1

/-! ### Ends from outside (R17, R103, R106) -/

/-- The allocator has preempted voice `v` (R103): the current target is abandoned and rejoins the queue at
its tail, or fails YIELDED at its third yield. -/
def yieldTarget (v : VoiceIx) (s : State) : State :=
  match s.tune.job with
  | some j =>
    if voiceOf j.target = v then
      if j.yields < 2 then
        dropJob { s with tune := { s.tune with queue := s.tune.queue ++ [⟨j.target, j.yields + 1⟩] } }
      else finishTune (dropJob (recordFailure .yielded j s))
    else s
  | none => s

/-- VOICE_SERVICE has taken the tuning voice `v` out (R17): its current target is abandoned and its queued
targets leave. -/
def removeVoiceTargets (v : VoiceIx) (s : State) : State :=
  let s1 := { s with tune := { s.tune with queue := s.tune.queue.filter fun e => voiceOf e.target != v } }
  match s.tune.job with
  | some j => if voiceOf j.target = v then finishTune (dropJob s1) else finishTune (publishStatus s1)
  | none => finishTune (publishStatus s1)

/-- TUNE_ABORT and STOP on a TUNE in flight (R106). -/
def abortTune (s : State) : State :=
  match s.tune.req with
  | none => s
  | some r =>
    let s1 :=
      match s.tune.job with
      | some j => returnVoice (voiceOf j.target) (dropJob s)
      | none => s
    complete r.req ⟨resAborted, wordOf (notCommitted r), wordOf (popCount r.fatal)⟩
      (publishStatus { s1 with tune := { s1.tune with queue := [], req := none } })

end Sys2Proof.Machine
end

