-- ==== Sys2Proof/Machine/NoteOps.lean ====
section
/-! DEFINITION. Note assignment: the mode latch, note starts, reuse, the tier search, steals, releases,
sustain, the mono modes and the part-wide entries (chapter 2). The operations on a part leave its
publication to `onPart`, which ends one entry's change of the part (R44). -/

namespace Sys2Proof.Machine

/-! ### Note starts (R26, R49, R50) -/

/-- The note, velocity and tag `n` move into the record and any pending note, return state, damp and
window go (R26, R30). -/
def Voice.takeNote (n : NoteInfo) (x : Voice) : Voice :=
  { x with note := some n, pending := none, returnState := none, damp := none, window := none, gateRequest := true }

/-- Starts the note `n` of part `p` on voice `v` as a fresh start, in state `st`, nothing being published:
the gate request goes on, the pitch-written flag is cleared and the glide target set (R26, R30, R49). -/
def beginNote (st : VoiceState) (p : PartIx) (n : NoteInfo) (v : VoiceIx) (s : State) : State :=
  (clearPitch v s).modVoice v fun x =>
    (startGlide (liveOf s p) false n.note (x.takeNote n)).moveTo st

/-- Starts the note `n` of part `p` on voice `v` (R26). -/
def startNote (p : PartIx) (n : NoteInfo) (v : VoiceIx) (s : State) : State :=
  (beginNote .sounding p n v s).publishVoice v (s.voice v)

/-! ### The damp (R28, R30) -/

/-- The damp of a STEALING voice ends (R30). -/
def endDamp (v : VoiceIx) (s : State) : State :=
  let x := s.voice v
  match x.pending, x.part with
  | some n, some p =>
    if !n.off then startNote p n.info v s
    else if (s.part p).sustain then (beginNote .held p n.info v s).publishVoice v x
    else
      s.changeVoice v fun x =>
        ({ x with note := none, pending := none, damp := none } : Voice).enterFree s.time
  | _, _ =>
    s.changeVoice v fun x =>
      ({ x with note := none, pending := none, damp := none } : Voice).enterFree s.time

/-- Voice `v` enters STEALING for the note `n` of part `p`, with unison index `i` of `k` (R25, R28). The
release stamp comes before the age stamp. A damp of 0 ms expires at once. -/
def stealVoice (p : PartIx) (n : NoteInfo) (i k : Nat) (v : VoiceIx) (s : State) : State :=
  let damp := decodeDamp (s.param p pDampTime)
  let s1 :=
    ((takeAge v (dropGate v s)).modVoice v fun x =>
      ({ x with
          window := none
          pending := some ⟨n, false⟩
          damp := some damp
          unisonIndex := BitVec.ofNat 8 i
          unisonCount := BitVec.ofNat 8 k } : Voice).moveTo .stealing).publishVoice v (s.voice v)
  if damp = 0 then endDamp v s1 else s1

/-! ### The release (R31) -/

/-- The release window of voice `v` has expired (R31). -/
def endWindow (v : VoiceIx) (s : State) : State :=
  s.changeVoice v fun x => ({ x with note := none, window := none } : Voice).enterFree s.time

/-- Voice `v` of part `p` enters RELEASING with its gate request off, a release stamp and its window
running (R31); a window of 0 ms expires at once. -/
def releaseVoice (p : PartIx) (v : VoiceIx) (s : State) : State :=
  let w := decodeWindow (s.param p pReleaseWindow)
  let s1 :=
    ((dropGate v s).modVoice v fun x =>
      ({ x with window := some w } : Voice).moveTo .releasing).publishVoice v (s.voice v)
  if w = 0 then endWindow v s1 else s1

/-- A SOUNDING voice whose key is released: HELD under sustain, otherwise RELEASING (R33, R41). -/
def releaseKey (p : PartIx) (v : VoiceIx) (s : State) : State :=
  if (s.part p).sustain then s.changeVoice v (Voice.moveTo .held) else releaseVoice p v s

/-- A STEALING voice's pending-off flag is set (R33, R41). -/
def setPendingOff (v : VoiceIx) (s : State) : State :=
  s.changeVoice v fun x => { x with pending := x.pending.map fun q => { q with off := true } }

/-! ### Tier search (R24, R25) -/

/-- The voice of the first list with the least stamp, the lowest voice number on a tie. -/
def oldest (f : VoiceIx → Long) (vs : List VoiceIx) : Option VoiceIx :=
  vs.foldl (fun best v =>
    match best with
    | none => some v
    | some b => if f v < f b then some v else some b) none

/-- A TUNING voice may be preempted: the TUNE in flight has policy YIELD and the voice's return state is
FREE (R24). -/
def preemptible (s : State) (x : Voice) : Bool :=
  (s.tune.req.map (·.yieldPolicy)).getD false && x.returnState == some .free

/-- One run of the tier search over the candidates `vs` (R25). A release stamp of 0 is the least, so tier
(a) takes the lowest voice number among those that never released first. -/
def tierSearch (s : State) (vs : List VoiceIx) : Option VoiceIx :=
  let inState (st : VoiceState) := vs.filter fun v => (s.voice v).state == st
  let age := fun v => (s.voice v).ageStamp
  let rel := fun v => (s.voice v).releaseStamp
  (oldest rel (inState .free)).or <|
  (oldest rel (inState .releasing)).or <|
  ((inState .tuning).filter fun v => preemptible s (s.voice v)).head?.or <|
  (oldest age (inState .held)).or <|
  (oldest age (inState .sounding))

/-- Up to `k` voices in the order the runs of the search choose them (R24). What a choice changes is the
chosen voice alone, which is no candidate again, so all the runs can look at one state. -/
def chooseVoices (s : State) : Nat → List VoiceIx → List VoiceIx
  | 0, _ => []
  | k + 1, vs =>
    match tierSearch s vs with
    | none => []
    | some v => v :: chooseVoices s k (vs.filter fun w => w != v)

/-- A voice chosen from tier (a) or (c) takes its age stamp and its unison index and count, and starts the
note at once (R26, R27). -/
def assignFresh (p : PartIx) (n : NoteInfo) (i k : Nat) (v : VoiceIx) (s : State) : State :=
  (beginNote .sounding p n v
    ((takeAge v s).modVoice v fun x =>
      { x with unisonIndex := BitVec.ofNat 8 i, unisonCount := BitVec.ofNat 8 k })).publishVoice v (s.voice v)

/-- The chosen voice `v` takes the note: started, preempted or stolen by the state it stands in (R25). -/
def assignVoice (p : PartIx) (n : NoteInfo) (i k : Nat) (v : VoiceIx) (s : State) : State :=
  match (s.voice v).state with
  | .free => assignFresh p n i k v s
  | .tuning => yieldTarget v (assignFresh p n i k v s)
  | .releasing | .held | .sounding => stealVoice p n i k v s
  | .stealing | .out => s

/-- The chosen voices take the note in the order chosen, with unison indexes 0, 1, 2, … of `k` (R25). -/
def assignAll (p : PartIx) (n : NoteInfo) (k : Nat) : Nat → List VoiceIx → State → State
  | _, [], s => s
  | i, v :: vs, s => assignAll p n k (i + 1) vs (assignVoice p n i k v s)

/-- The note is dropped (R28). -/
def dropNote (p : PartIx) (s : State) : State :=
  setCause causeVoice (s.modPart p fun x => { x with dropped := satInc x.dropped })

/-- Allocates voices for the note `n` of part `p`, or drops it (R24, R25, R28). -/
def allocate (p : PartIx) (n : NoteInfo) (s : State) : State :=
  let group := s.voicesOf p
  let chosen := chooseVoices s (min (s.part p).unison.toNat group.length) group
  if chosen.isEmpty then dropNote p s else assignAll p n chosen.length 0 chosen s

/-! ### POLY (R22, R23, R33) -/

/-- The voice holds the note for reuse (R23). -/
def holdsNote (x : Voice) (n : Key) : Bool :=
  match x.state with
  | .sounding | .held | .releasing => (x.note.map (·.note)) == some n
  | .stealing => (x.pending.map (·.info.note)) == some n
  | .free | .tuning | .out => false

/-- A reused voice (R23): a fresh age stamp, and by its state a start, a retrigger or a new pending note. -/
def reuseVoice (p : PartIx) (n : NoteInfo) (v : VoiceIx) (s : State) : State :=
  let s1 := takeAge v s
  let s2 :=
    match (s.voice v).state with
    | .releasing => beginNote .sounding p n v s1
    | .sounding | .held =>
      (retrigger v s1).modVoice v fun x =>
        (startGlide (liveOf s p) false n.note { x with note := some n }).moveTo .sounding
    | .stealing => s1.modVoice v fun x => { x with pending := some ⟨n, false⟩ }
    | .free | .tuning | .out => s1
  s2.publishVoice v (s.voice v)

/-- A NOTE_ON on a part latched POLY, after the latch (R22 steps 2 and 3). -/
def polyNoteOn (p : PartIx) (n : NoteInfo) (s : State) : State :=
  let holders := (s.voicesOf p).filter fun v => holdsNote (s.voice v) n.note
  if holders.isEmpty then allocate p n s else holders.foldl (fun t v => reuseVoice p n v t) s

/-- A NOTE_OFF on a part latched POLY (R33). -/
def polyNoteOff (p : PartIx) (n : Key) (s : State) : State :=
  (s.voicesOf p).foldl (fun t v =>
    let x := t.voice v
    if x.state == .sounding && (x.note.map (·.note)) == some n then releaseKey p v t
    else if x.state == .stealing && (x.pending.map (·.info.note)) == some n then setPendingOff v t
    else t) s

/-! ### Mono modes (R38 to R41) -/

/-- NOTE_ON on a held-note list (R39). -/
def heldInsert (n : Key) (l : List Key) : List Key :=
  if n ∈ l then l.filter (fun m => m != n) ++ [n]
  else if l.length < 16 then l ++ [n]
  else l.tail ++ [n]

/-- NOTE_OFF on a held-note list (R39). -/
def heldRemove (n : Key) (l : List Key) : List Key := l.filter fun m => m != n

/-- The priority note of a held-note list (R40). -/
def priorityNote (m : PartMode) (l : List Key) : Option Key :=
  match m with
  | .poly | .monoLast => l.getLast?
  | .monoLow => l.min?
  | .monoHigh => l.max?

/-- One voice of the mono set follows a change of the priority note to `n` (R40). `entry` is the NOTE_ON
being applied when its note is `n`: its velocity and tag are then taken, and otherwise kept. -/
def followPriority (p : PartIx) (n : Key) (entry : Option NoteInfo) (connected : Bool) (v : VoiceIx)
    (s : State) : State :=
  let legato := decodeLegato (s.param p pLegato)
  let renote (q : NoteInfo) : NoteInfo := entry.getD { q with note := n }
  let take := fun (x : Voice) =>
    startGlide (liveOf s p) connected n { x with note := some (renote (x.note.getD ⟨n, 0, 0#16⟩)) }
  match (s.voice v).state with
  | .sounding =>
    if legato && connected then s.changeVoice v take
    else ((retrigger v s).modVoice v take).publishVoice v (s.voice v)
  | .held =>
    ((retrigger v s).modVoice v fun x => (take x).moveTo .sounding).publishVoice v (s.voice v)
  | .stealing =>
    s.changeVoice v fun x =>
      { x with pending := x.pending.map fun q => { info := renote q.info, off := false } }
  | .free | .releasing | .tuning | .out => s

/-- The mono set of part `p` (R38). -/
def monoSet (s : State) (p : PartIx) : List VoiceIx := (s.voicesOf p).filter fun v => (s.voice v).state.playing

/-- The mono set follows the held-note list from `before` to the one now held (R40). -/
def followList (p : PartIx) (before : List Key) (entry : Option NoteInfo) (s : State) : State :=
  let x := s.part p
  let old := priorityNote x.mode before
  match priorityNote x.mode x.held with
  | none => s
  | some n =>
    if old = some n then s
    else
      let mine := entry.filter fun e => e.note == n
      (monoSet s p).foldl (fun t v => followPriority p n mine (!before.isEmpty) v t) s

/-- A NOTE_ON on a part latched to a mono mode, after the latch; `wasIdle` says whether the part was idle
(R38). -/
def monoNoteOn (p : PartIx) (n : NoteInfo) (wasIdle : Bool) (s : State) : State :=
  let before := (s.part p).held
  let s1 := s.modPart p fun x => { x with held := heldInsert n.note x.held }
  if wasIdle then
    allocate p { n with note := (priorityNote (s1.part p).mode (s1.part p).held).getD n.note } s1
  else followList p before (some n) s1

/-- A NOTE_OFF on a part latched to a mono mode (R41). -/
def monoNoteOff (p : PartIx) (n : Key) (s : State) : State :=
  let before := (s.part p).held
  if n ∈ before then
    let s1 := s.modPart p fun x => { x with held := heldRemove n x.held }
    if (s1.part p).held.isEmpty then
      (monoSet s1 p).foldl (fun t v =>
        match (t.voice v).state with
        | .sounding => releaseKey p v t
        | .stealing => setPendingOff v t
        | .free | .held | .releasing | .tuning | .out => t) s1
    else followList p before none s1
  else s

/-! ### The mode latch (R21) -/

/-- Latches the part's mode and unison count; a latch into POLY empties the held-note list. -/
def latchMode (p : PartIx) (s : State) : State :=
  let mode := decodePartMode (s.param p pPartMode)
  s.modPart p fun x =>
    { x with
      mode := mode
      unison := decodeUnison (s.param p pUnisonCount)
      held := if mode = .poly then [] else x.held }

/-! ### Entries on one part -/

/-- One entry applied to part `p`: the part record is republished at its end (R44). -/
def onPart (p : PartIx) (f : State → State) (s : State) : State := (f s).publishPart p (s.part p)

/-- A NOTE_ON with nonzero velocity on part `p` (R22, R38). -/
def playNote (p : PartIx) (n : NoteInfo) (s : State) : State :=
  let idle := s.idlePart p
  let s1 := if idle then latchMode p s else s
  if (s1.part p).mode = .poly then polyNoteOn p n s1 else monoNoteOn p n idle s1

/-- A NOTE_OFF of note `n` on part `p` (R33, R41). -/
def stopNote (p : PartIx) (n : Key) (s : State) : State :=
  if (s.part p).mode = .poly then polyNoteOff p n s else monoNoteOff p n s

/-- Sets or clears the sustain flag of part `p`; clearing a flag that was on moves every HELD voice of the
part to RELEASING (R32). -/
def setSustain (on : Bool) (p : PartIx) (s : State) : State :=
  let was := (s.part p).sustain
  let s1 := s.modPart p fun x => { x with sustain := on }
  if was && !on then
    (s.voicesOf p).foldl (fun t v => if (t.voice v).state == .held then releaseVoice p v t else t) s1
  else s1

/-- Sets the bend of part `p` (R37). -/
def setBend (b : BitVec 14) (p : PartIx) (s : State) : State := s.modPart p fun x => { x with bend := b }

/-- ALL_OFF on part `p` (R36). -/
def allOffPart (p : PartIx) (s : State) : State :=
  ((s.voicesOf p).foldl (fun t v => cutVoice false v t) s).modPart p fun x =>
    { x with held := [], sustain := false }

/-- STOP on the allocator (R43): every active voice is cut, every held list emptied and every sustain flag
cleared. R43 has every retrigger gap in flight end 'with its voice', and the model ends a gap by the cut alone (R7,
R75): a gap that still runs on a voice already FREE, OUT or TUNING, which is not cut, runs on to its own end:
DEDUCED (log entry 25). -/
def stopAllocator (s : State) : State :=
  (List.finRange 4).foldl (fun t p => t.changePart p fun x => { x with held := [], sustain := false })
    (forVoices (cutVoice false) s)

end Sys2Proof.Machine
end

