-- ==== Sys2Proof/Machine/PatchOps.lean ====
section
/-! DEFINITION. The patch engine and the control router: writes to the live sets, edit marks, morph
contexts and lanes, pickup, and the routing of pots and switches (chapters 6, 7 and 9). -/

namespace Sys2Proof.Machine

/-! ### Live values and contexts -/

/-- Sets one live value (R116). -/
def setLive (p : PartIx) (i : ParamIx) (v : Word) (s : State) : State :=
  { s with patch := { s.patch with live := s.patch.live.set p ((s.patch.live[p]).set i v) } }

/-- The morph context of part `p`. -/
def State.context (s : State) (p : PartIx) : Option Context := s.patch.contexts[p]

def setContext (p : PartIx) (c : Option Context) (s : State) : State :=
  { s with patch := { s.patch with contexts := s.patch.contexts.set p c } }

/-- Changes the record of the RECALL request `id` (R131). -/
def modRecall (id : Nat) (f : RecallReq → RecallReq) (s : State) : State :=
  { s with
    patch := { s.patch with recalls := s.patch.recalls.map fun r => if r.req.id = id then f r else r } }

/-- The request `id` owns a context. -/
def ownsContext (s : State) (id : Nat) : Bool :=
  (List.finRange 4).any fun p => (s.context p).any fun c => c.owner == id

/-- The completion of a RECALL at the end of its last context (R139). -/
def recallOutcome (r : RecallReq) : Completion :=
  if r.partsLost = 0 then Completion.ok r.lanesCancelled
  else ⟨resSuperseded, wordOf r.partsLost, wordOf r.lanesCancelled⟩

/-- The request's record and its copy of the frame are released. -/
def releaseRecall (id : Nat) (s : State) : State :=
  { s with patch := { s.patch with recalls := s.patch.recalls.filter fun r => r.req.id != id } }

/-- When the request `id` owns no context any more it completes (R139). -/
def finishRecall (id : Nat) (s : State) : State :=
  if ownsContext s id then s
  else
    match s.patch.recalls.find? fun r => r.req.id == id with
    | some r => complete r.req (recallOutcome r) (releaseRecall id s)
    | none => s

/-- The lane of part `p` on parameter `i`. -/
def laneOn (s : State) (p : PartIx) (i : ParamIx) : Option Lane :=
  (s.context p).bind fun c => c.lanes.find? fun l => l.param == i

/-- A write to parameter `i` of part `p` cancels the lane on it, if one runs (R137). -/
def cancelLane (p : PartIx) (i : ParamIx) (s : State) : State :=
  match s.context p with
  | none => s
  | some c =>
    if c.lanes.any fun l => l.param == i then
      let left := c.lanes.filter fun l => l.param != i
      let s1 := modRecall c.owner (fun r => { r with lanesCancelled := r.lanesCancelled + 1 }) s
      if left.isEmpty then
        finishRecall c.owner ((setContext p none s1).changePart p fun x => { x with progress := noneWord })
      else setContext p (some { c with lanes := left }) s1
    else s

/-! ### Pickup (R174 to R176) -/

/-- The installed descriptor of pot `i`. -/
def State.potDesc (s : State) (i : PotIx) : PotDesc := s.router.pots[i]

/-- The record of pot `i`. -/
def State.pot (s : State) (i : PotIx) : Pot := s.panel.pots[i]

def State.setPot (s : State) (i : PotIx) (x : Pot) : State :=
  { s with panel := { s.panel with pots := s.panel.pots.set i x } }

/-- Sets the pickup state of pot `i`; the entry is rewritten if it changes, and the change count does not
advance (R174, R175). -/
def setPickup (i : PotIx) (k : Pickup) (s : State) : State :=
  if (s.pot i).pickup = k then s
  else
    let x := { s.pot i with pickup := k }
    (s.setPot i x).writeWord (potBase i + 3) (pickupWord x)

/-- w = 256·(nibble + 1) (R166). -/
def PotDesc.windowSize (d : PotDesc) : Nat := 256 * (d.window.toNat + 1)

/-- h = 2·d (R151). -/
def PotDesc.hysteresisSize (d : PotDesc) : Nat := 2 * d.hysteresis.toNat

/-- The distance of two v16 values. -/
def distance (a b : Word) : Nat := if a ≤ b then (b - a).toNat else (a - b).toNat

/-- The reference of a PASS pot with descriptor `d`: what its parameter in the lowest part of its mask is
headed for (R174). -/
def reference (s : State) (d : PotDesc) : Word :=
  match (maskParts d.mask).head? with
  | some p =>
    match laneOn s p d.param with
    | some l => l.target
    | none => s.param p d.param
  | none => 0#16

/-- The descriptor is that of a PARAM pot with the PASS policy. -/
def PotDesc.passes (d : PotDesc) : Bool := d.kind == .param && d.pass

/-- Judges pot `i` against its reference (R175). -/
def judgePot (i : PotIx) (s : State) : State :=
  let d := s.potDesc i
  setPickup i (if d.windowSize < distance (s.pot i).v16 (reference s d) then .detached else .attached) s

/-- Judges every valid PASS pot that the test picks out, in ascending order. -/
def judgePots (f : PotDesc → Bool) (s : State) : State :=
  (List.finRange 128).foldl (fun t i =>
    if (t.potDesc i).passes && f (t.potDesc i) && (t.pot i).valid then judgePot i t else t) s

/-- The router is told that part `p` has been recalled (R145, R175). -/
def reportRecall (p : PartIx) (s : State) : State := judgePots (fun d => d.mask.getLsbD p.val) s

/-- The router is told of a PARAM_WRITE write (R116, R175). -/
def reportWrite (p : PartIx) (i : ParamIx) (s : State) : State :=
  judgePots (fun d => d.mask.getLsbD p.val && d.param == i) s

/-! ### Writes (R116) -/

/-- Sets the edit mark of parameter `i`. -/
def markOf (i : ParamIx) : BitVec 128 := bitMask 128 i.val

/-- A router write: the value, the lane cancelled, the edit mark set and reported (R116, R118). -/
def routerWrite (p : PartIx) (i : ParamIx) (v : Word) (s : State) : State :=
  (cancelLane p i (setLive p i v s)).changePart p fun x => { x with marks := x.marks ||| markOf i }

/-- The router writes one value into each part of a mask, in ascending order (R169). -/
def routerWrites (m : BitVec 4) (i : ParamIx) (v : Word) (s : State) : State :=
  (maskParts m).foldl (fun t p => routerWrite p i v t) s

/-! ### Hand-offs (R170 to R173, R176) -/

/-- The attach test of a DETACHED pot whose v16 goes from `prev` to `now` against the reference `r`: `now`
lies in the window, or `prev` and `now` lie on opposite sides of `r` or one of them equals it (R176). -/
def attaches (d : PotDesc) (prev now r : Word) : Bool :=
  decide (distance now r ≤ d.windowSize) || prev == r || now == r || (decide (prev < r) != decide (now < r))

/-- The bend a BEND pot sets (R171). -/
def potBend (d : PotDesc) (v : Word) : BitVec 14 :=
  let x : Int := (v.toNat : Int) - 32768
  if x.natAbs < d.windowSize then 0#14 else BitVec.ofInt 14 (Int.fdiv x 4)

/-- The scanner hands an accepted change of pot `i` to the router (R169 to R171, R176). -/
def handPot (i : PotIx) (prev now : Word) (s : State) : State :=
  let d := s.potDesc i
  match d.kind with
  | .unused | .report => s
  | .bend => (maskParts d.mask).foldl (fun t p => onPart p (setBend (potBend d now) p) t) s
  | .param =>
    match (s.pot i).pickup with
    | .attached => routerWrites d.mask d.param now s
    | .detached =>
      if attaches d prev now (reference s d) then routerWrites d.mask d.param now (setPickup i .attached s) else s
    | .unrouted => s

/-- What a TOGGLE press writes over the present value (R172). -/
def toggleValue (v : Word) : Word := if v.toNat < 32768 then 65535#16 else 0#16

/-- What a STEP press writes over the present value (R172). -/
def stepValue (i : ParamIx) (v : Word) : Word :=
  let n := (paramSteps i).getD 2
  canonical n ((stepOf n v + 1) % n)

/-- The scanner hands a flip of switch `i` to the router (R172, R173). -/
def handSwitch (i : SwitchIx) (pressed : Bool) (s : State) : State :=
  let d := s.router.switches[i]
  match d.kind with
  | .unused | .report => s
  | .toggle =>
    if pressed then
      (maskParts d.mask).foldl (fun t p => routerWrite p d.param (toggleValue (t.param p d.param)) t) s
    else s
  | .momentary => routerWrites d.mask d.param (if pressed then 65535#16 else 0#16) s
  | .step =>
    if pressed then
      (maskParts d.mask).foldl (fun t p => routerWrite p d.param (stepValue d.param (t.param p d.param)) t) s
    else s
  | .sustain => (maskParts d.mask).foldl (fun t p => onPart p (setSustain pressed p) t) s

/-! ### Morph steps (R134 to R136) -/

/-- φ of a context after `elapsed` ms (R134). -/
def phase (elapsed t : Nat) : Nat := min 65536 (elapsed * 65536 / t)

/-- The value of a lane at φ (R134, R135). -/
def laneValue (l : Lane) (phi : Nat) : Word :=
  match paramSteps l.param with
  | none =>
    BitVec.ofInt 16
      ((l.start.toNat : Int) + Int.fdiv (((l.target.toNat : Int) - l.start.toNat) * phi) 65536)
  | some _ => if phi < 32768 then l.start else l.target

/-- A lane step writes the lane's value if it differs from the live one (R134). -/
def stepLane (p : PartIx) (phi : Nat) (l : Lane) (s : State) : State :=
  if s.param p l.param = laneValue l phi then s else setLive p l.param (laneValue l phi) s

/-- The context of part `p` steps: its lanes move, its progress is published, and at φ = 65536 it ends
(R134, R136, R140). -/
def stepContext (p : PartIx) (s : State) : State :=
  match s.context p with
  | none => s
  | some c =>
    let phi := phase (s.time - c.startTime).toNat c.morphTime
    let s1 := c.lanes.foldl (fun t l => stepLane p phi l t) s
    if phi = 65536 then
      finishRecall c.owner ((setContext p none s1).changePart p fun x => { x with progress := noneWord })
    else s1.changePart p fun x => { x with progress := wordOf (phi / 256) }

/-- STOP on the patch engine: every context ends where it stands and each request that owned one completes
ABORTED (R142). R142 gives no order of these completions, which shows only where two of the requests hold one slot
and ticket (R197); the model takes them in the order in which the requests were accepted: DESIGN CHOICE (log entry
23). -/
def stopPatch (s : State) : State :=
  let owned (id : Nat) : Nat :=
    ((List.finRange 4).filter fun p => (s.context p).any fun c => c.owner == id).length
  let s1 := (List.finRange 4).foldl (fun t p =>
    (setContext p none t).changePart p fun x => { x with progress := noneWord }) s
  s.patch.recalls.foldl (fun t r =>
    complete r.req ⟨resAborted, wordOf (owned r.req.id), wordOf r.lanesCancelled⟩ (releaseRecall r.req.id t)) s1

/-! ### Accepting a recall (R132, R133, R138) -/

/-- The context of part `p`, if it has one, is superseded: its owner loses the part (R138). -/
def supersede (p : PartIx) (s : State) : State :=
  match s.context p with
  | none => s
  | some c =>
    finishRecall c.owner
      (modRecall c.owner (fun r => { r with partsLost := r.partsLost + 1 }) (setContext p none s))

/-- The lanes from the live values of part `p` to the copy: one for each differing parameter, ascending
(R132 steps 3 and 4). -/
def lanesTo (s : State) (p : PartIx) (copy : Vector Word 128) : List Lane :=
  ((List.finRange 128).filter fun i => s.param p i != copy[i]).map fun i => ⟨i, s.param p i, copy[i]⟩

/-- One part of an accepted RECALL of the request `r` with morph time `t` (R132). -/
def recallPart (r : Inflight) (t : Nat) (copy : Vector Word 128) (p : PartIx) (s : State) : State :=
  let s1 := supersede p s
  let lanes := lanesTo s1 p copy
  let s2 :=
    if t = 0 then lanes.foldl (fun u l => setLive p l.param l.target u) s1
    else if lanes.isEmpty then s1
    else setContext p (some { owner := r.id, startTime := s.time, morphTime := t, lanes := lanes }) s1
  (reportRecall p s2).changePart p fun x =>
    { x with
      marks := 0#128
      recallTicket := r.ticket
      progress := if t = 0 ∨ lanes.isEmpty then noneWord else 0#16 }

end Sys2Proof.Machine
end

