-- ==== Sys2Proof/Machine/RefreshOps.lean ====
section
/-! DEFINITION. The refresh engine: passes, slot turns, the slot-written event and its two receivers, and
the installation of a CV map (R64 to R77, R90). -/

namespace Sys2Proof.Machine

/-- The refresh lines in the dwell of a slot that carries the code `c`: the frame is closed and SHS_N is
high; the two data lines stand at a level the specification does not state (R67; log entry 18). -/
def dwellLines (c : Word) : RefreshLines where
  dsync := true
  shsN := true
  dclk := Config.dwellClock c
  ddata := Config.dwellData c

/-- The turn of the slot with place `i` in the map begins: its code is obtained, its address driven and the
code sent to the DAC (R67, R70). -/
def startTurn (i : Nat) (c : CvSlot) (s : State) : State :=
  let code := slotCode s c
  { s with
    refresh :=
      { s.refresh with
        turn := some { index := i, slot := c, code := code.1, source := code.2, fresh := true }
        address := c.address
        lines := dwellLines code.1
        dac := some code.1 } }

/-- A pass of the installed map starts, and the period timer is restarted (R66). -/
def startPass (s : State) : State :=
  match s.refresh.map with
  | [] => s
  | c :: _ => startTurn 0 c { s with refresh := { s.refresh with timer := .running } }

/-- The time of a pass in µs: 13 for a long slot, 5 for a short one (R67, R77). -/
def passTime (map : List CvSlot) : Nat := (map.map fun c => if c.longDwell then 13 else 5).sum

/-- The last pass time is kept and written into header word 10 (R77). -/
def setLastPass (w : Word) (s : State) : State :=
  { s with
    header := { s.header with lastPass := w }
    page := Page.writeWord s.page (headerBase + 10) w }

/-- No pass runs: the refresh lines rest (R65). -/
def restRefresh (s : State) : State :=
  { s with refresh := { s.refresh with turn := none, address := 0#8, lines := restLines } }

/-- Every written set is emptied; a voice with no mapped pitch slot then holds every one it has (R65, R73). -/
def emptyWrittenSets (s : State) : State :=
  forVoices (fun v t => t.changeVoice v fun x => x.emptyWritten.settleWritten s.refresh.map v) s

/-- Under a new map the current trial code is brought within the bounds that the map gives the pitch slot of
its target: the tune engine keeps its codes within the slot's bounds (R71), and those bounds are the ones of
every trial code (R80). The rules name no such step for an installation, and whether the offer stands. DESIGN
CHOICE (log entry 5): the code alone is brought within the bounds, under its old offer number, with the
engine's state and timers as they are; and where the map holds no slot of the target, nothing is done. -/
def fitTrialCode (s : State) : State :=
  match s.tune.job with
  | some j =>
    match pitchSlotOf s.refresh.map j.target with
    | some c => publishStatus (modJob (fun j => { j with code := clampCode c.low c.high j.code.toNat }) s)
    | none => s
  | none => s

/-- A CV map and refresh period are installed (R65). What R65 leaves open there, a standing trial offer whose
slot gets other bounds, is `fitTrialCode` (DESIGN CHOICE, log entry 5). -/
def installMap (m : MapLoad) (s : State) : State :=
  let s1 :=
    fitTrialCode
      (emptyWrittenSets
        { s with
          refresh :=
            { s.refresh with map := m.map, period := m.period, next := none, overrun := false, timer := .stopped } })
  if m.map.isEmpty then setLastPass 0#16 (restRefresh s1) else startPass s1

/-- A SETUP_LOAD hands over a map: it is installed at once if no pass runs, and otherwise at the end of the
running pass, in place of any that waits (R65). -/
def loadMap (m : MapLoad) (s : State) : State :=
  match s.refresh.turn with
  | none => installMap m s
  | some _ => { s with refresh := { s.refresh with next := some m } }

/-- The running pass ends (R66, R69, R77). -/
def endPass (s : State) : State :=
  let s1 := setLastPass (wordOf (passTime s.refresh.map)) s
  match s.refresh.next with
  | some m => installMap m s1
  | none =>
    if s.refresh.timer = .expired then startPass s1
    else restRefresh { s1 with refresh := { s1.refresh with overrun := false } }

/-- The refresh period timer expires (R66, R69). -/
def expirePeriod (s : State) : State :=
  match s.refresh.timer with
  | .stopped | .expired => s
  | .running =>
    if s.refresh.turn.isNone then startPass s
    else if s.refresh.overrun then { s with refresh := { s.refresh with timer := .expired } }
    else
      let n := satInc s.header.refreshOverruns
      setCause causeRefresh
        { s with
          refresh := { s.refresh with timer := .expired, overrun := true }
          header := { s.header with refreshOverruns := n }
          page := Page.writeWord s.page (headerBase + 11) n }

/-- The hold output at the turn's address takes the DAC voltage (R67 step 5). -/
def strobe (t : Turn) (s : State) : State :=
  { s with refresh := { s.refresh with holds := s.refresh.holds.set t.slot.address.toNat (some t.code) } }

/-- The gate unit takes a slot-written event (R73): a computed code of a pitch slot, obtained since the
flag was last cleared, joins the written set of its owner, unless the voice is TUNING when it is written:
R73 never adds a code written while the voice is TUNING, and the model reads 'written' as the strobe, so
that it leaves out a computed code obtained before the reservation of the voice too (log entry 22,
DEDUCED). A trial or park code is not added either where it was obtained while the voice was TUNING and is
strobed after the tune engine has returned the voice (R88), which no note start clears: the model adds computed
codes alone (log entry 22, DEDUCED). -/
def gateEvent (t : Turn) (s : State) : State :=
  match t.slot.owner, t.slot.kind.pitchIndex with
  | .voice v, some j =>
    if t.fresh && t.source == .computed && !(s.voice v).pitchWritten && (s.voice v).state != .tuning then
      s.changeVoice v fun x => (x.addWritten j).settleWritten s.refresh.map v
    else s
  | _, _ => s

/-- The tune engine takes a slot-written event (R90): in WAIT, the one that names the current offer begins
the settle time. -/
def tuneEvent (t : Turn) (s : State) : State :=
  match s.tune.job with
  | some j =>
    if s.tune.engine = .wait ∧ t.source = .trial j.offer then
      publishStatus
        { s with
          tune :=
            { s.tune with
              engine := .settle
              job := s.tune.job.map fun j => { j with timer := settleMs j.point } } }
    else s
  | none => s

/-- The dwell of the slot in its turn ends: strobe, event, and the next slot's turn or the end of the pass
(R67, R68). -/
def endTurn (s : State) : State :=
  match s.refresh.turn with
  | none => s
  | some t =>
    let s1 := tuneEvent t (gateEvent t (strobe t s))
    match s1.refresh.map[t.index + 1]? with
    | some c => startTurn (t.index + 1) c s1
    | none => endPass s1

end Sys2Proof.Machine
end

