-- ==== Sys2Proof/Machine/PanelOps.lean ====
section
/-! DEFINITION. The panel scanner: pot passes and conversions, the debounce of the switches, the LED
matrix, and what an installation of descriptors does to the panel (chapter 8; R174, R178). -/

namespace Sys2Proof.Machine

/-! ### Pots (R148 to R154) -/

/-- The pots from number `i` on that the pass converts (R150). -/
def nextPot (s : State) (i : Nat) : Option PotIx :=
  (List.finRange 128).find? fun p => i ≤ p.val && (s.potDesc p).kind != .unused

/-- The multiplexer whose channels hold pot `p`, and so the ADC input AIN that the pot is converted at
(R150). -/
def adcInputOf (p : PotIx) : Fin 8 := ⟨p.val / 16, by omega⟩

/-- The pass goes on with the first used pot from number `i` on: its descriptor is read and its channel and
ADC input are selected (R150). With none left no conversion is in progress. -/
def convertFrom (i : Nat) (s : State) : State :=
  match nextPot s i with
  | some p =>
    { s with
      panel :=
        { s.panel with
          conversion := some { pot := p, desc := s.potDesc p, emptyAfter := false }
          potSelect := BitVec.ofNat 4 (p.val % 16)
          adcInput := adcInputOf p } }
  | none => { s with panel := { s.panel with conversion := none } }

/-- A pot pass starts and its timer is restarted (R149). -/
def startPotPass (s : State) : State := convertFrom 0 { s with panel := { s.panel with potTimer := .running } }

/-- The pass period is installed and a pass starts (R149). -/
def installPeriod (c : Fin 4) (s : State) : State :=
  startPotPass { s with panel := { s.panel with potPeriod := some c, nextPeriod := none } }

/-- A SETUP_LOAD hands over a pass period: installed at once if no pass runs, otherwise at its end (R149). -/
def loadPeriod (c : Fin 4) (s : State) : State :=
  match s.panel.conversion with
  | none => installPeriod c s
  | some _ => { s with panel := { s.panel with nextPeriod := some c } }

/-- After a conversion of the pot numbered `i` − 1 the pass goes on, or ends (R149). -/
def advancePass (i : Nat) (s : State) : State :=
  match nextPot s i with
  | some _ => convertFrom i s
  | none =>
    let s1 := convertFrom i s
    match s1.panel.nextPeriod with
    | some c => installPeriod c s1
    | none => if s1.panel.potTimer = .expired then startPotPass s1 else s1

/-- The pot pass timer expires (R149). -/
def expirePotTimer (s : State) : State :=
  match s.panel.potTimer with
  | .stopped | .expired => s
  | .running =>
    if s.panel.conversion.isNone then startPotPass s
    else { s with panel := { s.panel with potTimer := .expired } }

/-- v16 = floor(m·65535/4095) (R152). -/
def scalePot (m : BitVec 12) : Word := wordOf (m.toNat * 65535 / 4095)

/-- The entry is written, the change count last (R148, R152). Its word 3 is written with it, with the present
pickup state, since the high byte of that word is written 0 each time the record is (R200). -/
def publishPot (i : PotIx) (s : State) : State := { s with page := Page.writePot s.page i (s.pot i) }

/-- A change of pot `i` to the average `m` is accepted (R152). -/
def acceptPot (i : PotIx) (m : BitVec 12) (s : State) : State :=
  let x := s.pot i
  let y := { x with prevV16 := x.v16, accepted := m, v16 := scalePot m, changeCount := x.changeCount + 1#8 }
  let s1 := setCause causeControl (publishPot i (s.setPot i y))
  if s.running then handPot i y.prevV16 y.v16 s1 else s1

/-- The test for a change (R151). -/
def potMoved (h : Nat) (a m : BitVec 12) : Bool :=
  decide (h ≤ ((m.toNat : Int) - a.toNat).natAbs) || (m == 0#12 && a != 0#12) || (m == 4095#12 && a != 4095#12)

/-- The average of the four samples (R150). -/
def average (h : List (BitVec 12)) : BitVec 12 := BitVec.ofNat 12 ((h.map (·.toNat)).sum / 4)

/-- A sample of pot `i` is taken into its history and tested, under the descriptor `d` (R150, R151). -/
def takeSample (i : PotIx) (d : PotDesc) (x : BitVec 12) (s : State) : State :=
  let pot := s.pot i
  if pot.valid then
    let history := pot.history.drop 1 ++ [x]
    let s1 := s.setPot i { pot with history := history }
    if potMoved d.hysteresisSize pot.accepted (average history) then acceptPot i (average history) s1 else s1
  else
    publishPot i
      (s.setPot i
        { pot with
          history := List.replicate 4 x
          accepted := x
          v16 := scalePot x
          prevV16 := scalePot x
          valid := true })

/-- A pot that has become UNUSED is emptied: no history and the valid flag clear; the entry is published
(R153). -/
def emptyPot (i : PotIx) (s : State) : State :=
  publishPot i (s.setPot i { s.pot i with history := [], valid := false })

/-- The conversion in progress completes with the sample `x` (R150, R153). -/
def finishConversion (x : BitVec 12) (s : State) : State :=
  match s.panel.conversion with
  | none => s
  | some c =>
    let s1 := takeSample c.pot c.desc x s
    advancePass (c.pot.val + 1) (if c.emptyAfter then emptyPot c.pot s1 else s1)

/-! ### Switches (R155 to R160) -/

/-- The record of switch `i`. -/
def State.switch (s : State) (i : SwitchIx) : Switch := s.panel.switches[i]

/-- Switch `i` holds the record `x`; its entry is rewritten if a field has changed (R155). -/
def setSwitch (i : SwitchIx) (x : Switch) (s : State) : State :=
  let s1 := { s with panel := { s.panel with switches := s.panel.switches.set i x } }
  if s.switch i = x then s1 else s1.writeWords (switchBase i) (switchWords x)

/-- Debouncing a sample with the count `n` (R157): the new record, and whether the switch has flipped. -/
def debounce (n : Nat) (raw : Bool) (x : Switch) : Switch × Bool :=
  let y := { x with raw := raw }
  if raw = x.debounced then ({ y with stable := 0 }, false)
  else if n ≤ x.stable + 1 then ({ y with stable := 0, debounced := raw }, true)
  else ({ y with stable := x.stable + 1 }, false)

/-- The counts of a flipped switch (R158). -/
def countFlip (d : SwitchDesc) (x : Switch) : Switch :=
  if x.debounced then (if d.pressReport then { x with presses := x.presses + 1#8 } else x)
  else (if d.releaseReport then { x with releases := x.releases + 1#8 } else x)

/-- The flip to the debounced state `pressed` is reported to the host (R158). -/
def reportsFlip (d : SwitchDesc) (pressed : Bool) : Bool := if pressed then d.pressReport else d.releaseReport

/-- One switch is sampled (R156 to R158). -/
def sampleSwitch (i : SwitchIx) (raw : Bool) (s : State) : State :=
  let d := s.router.switches[i]
  let x := s.switch i
  if d.kind = .unused then setSwitch i { x with raw := raw } s
  else
    let r := debounce s.panel.debounce raw x
    if r.2 then
      let s1 := setSwitch i (countFlip d r.1) s
      let s2 := if reportsFlip d r.1.debounced then setCause causeSwitch s1 else s1
      if s.running then handSwitch i r.1.debounced s2 else s2
    else setSwitch i r.1 s

/-- The switch at row `r` and column `c` (R155). -/
def switchAt (r c : Fin 8) : SwitchIx := ⟨8 * r.val + c.val, by omega⟩

/-- The columns of the current row are sampled in ascending switch number, and the next row is driven
(R156, R158). -/
def sampleRow (cols : Byte) (s : State) : State :=
  let r := s.panel.switchRow
  let s1 := (List.finRange 8).foldl (fun t c => sampleSwitch (switchAt r c) (cols.getLsbD c.val) t) s
  { s1 with panel := { s1.panel with switchRow := r + 1 } }

/-! ### LEDs (R161 to R163) -/

/-- The LED with descriptor `d` is lit as the sources stand (R162). -/
def ledLit (s : State) (d : LedDesc) : Bool :=
  match d with
  | .unused => false
  | .image b => (Page.readWord s.page (headerBase + 14 + b.val / 16)).getLsbD (b.val % 16)
  | .gate v => (s.voice v).gateOut
  | .detached i => (s.pot i).pickup == .detached
  | .tuning v => (s.voice v).state == .tuning

/-- The LED at row `r` and column `c` (R161). -/
def ledAt (r c : Fin 8) : LedIx := ⟨8 * r.val + c.val, by omega⟩

/-- The columns that row `r` lights (R161). -/
def ledColumns (s : State) (r : Fin 8) : Byte :=
  (List.finRange 8).foldl (fun b c => if ledLit s s.router.leds[ledAt r c] then b ||| bitMask 8 c.val else b) 0#8

/-- The millisecond of the next row starts (R161). -/
def turnLedRow (s : State) : State :=
  let r := s.panel.ledNext
  { s with panel := { s.panel with ledRow := some r, ledColumns := ledColumns s r, ledNext := r + 1 } }

/-! ### Installing descriptors (R153, R159, R163, R174, R178) -/

/-- What the scanner does to pot `i` when its descriptor goes from `old` to `new` (R153). A conversion in
progress completes first under the descriptor it started with. -/
def scanPotInstalled (i : PotIx) (old new : PotDesc) (s : State) : State :=
  if old.kind != .unused && new.kind == .unused then
    match s.panel.conversion with
    | some c =>
      if c.pot = i then { s with panel := { s.panel with conversion := some { c with emptyAfter := true } } }
      else emptyPot i s
    | none => emptyPot i s
  else s

/-- What the scanner does to switch `i` when its descriptor goes from `old` to `new` (R159): the entry of a
switch that becomes UNUSED is rewritten in any case. -/
def scanSwitchInstalled (i : SwitchIx) (old new : SwitchDesc) (s : State) : State :=
  let x := { s.switch i with debounced := false, stable := 0 }
  if (old.kind == .unused) != (new.kind == .unused) then
    if new.kind = .unused then (setSwitch i x s).writeWords (switchBase i) (switchWords x) else setSwitch i x s
  else s

/-- The pickup state a SETUP_LOAD gives a pot from its kind (R174). -/
def loadedPickup : PotKind → Pickup
  | .unused | .report => .unrouted
  | .param | .bend => .attached

/-- The routing of a pot: kind, part mask, policy and parameter index (R178). -/
def sameRouting (a b : PotDesc) : Bool :=
  a.kind == b.kind && a.mask == b.mask && a.pass == b.pass && a.param == b.param

/-- The pickup state a ROUTE gives pot `i`, whose routing has changed to the installed one (R178). A pot that an
earlier ROUTE made UNUSED during its conversion, which still runs, has its valid flag until that conversion ends
and empties it (R153), so a ROUTE that gives it PARAM and PASS meanwhile judges it, and may leave it DETACHED
when it is emptied: DEDUCED (log entry 16). -/
def routePickup (i : PotIx) (s : State) : State :=
  let d := s.potDesc i
  if d.passes && (s.pot i).valid then judgePot i s else setPickup i (loadedPickup d.kind) s

/-- One descriptor is installed, with the scanner's effects (R153, R159, R163). -/
def installDesc (d : AnyDesc) (s : State) : State :=
  match d with
  | .pot i new =>
    scanPotInstalled i (s.potDesc i) new
      { s with router := { s.router with pots := s.router.pots.set i new } }
  | .switch i new =>
    scanSwitchInstalled i s.router.switches[i] new
      { s with router := { s.router with switches := s.router.switches.set i new } }
  | .led i new => { s with router := { s.router with leds := s.router.leds.set i new } }

/-- The installed contents of the descriptor's place differ from it (R178). -/
def descChanges (s : State) (d : AnyDesc) : Bool :=
  match d with
  | .pot i new => s.potDesc i != new
  | .switch i new => s.router.switches[i] != new
  | .led i new => s.router.leds[i] != new

/-- The pots among descriptors whose routing they change (R178). -/
def rerouted (s : State) (ds : List AnyDesc) : List PotIx :=
  ds.filterMap fun d =>
    match d with
    | .pot i new => if sameRouting (s.potDesc i) new then none else some i
    | .switch _ _ => none
    | .led _ _ => none

end Sys2Proof.Machine
end

