-- ==== Sys2Proof/Machine/SweepOps.lean ====
section
/-! DEFINITION. The sweeper: starting and ending a sweep, the stream entry and the slot that are next, and
the take of a request (R191 to R197). -/

namespace Sys2Proof.Machine

/-! ### Slots in taking order (R194) -/

/-- The key (ticket − L − 1) mod 65536 of a posted slot (R194). -/
def slotKey (s : State) (i : SlotIx) : Word := slotTicket s.page i - s.sweeper.last - 1#16

/-- Inserts a slot into the taking order after every slot whose key is not greater (R194). -/
def insertSlot (s : State) (i : SlotIx) : List SlotIx → List SlotIx
  | [] => [i]
  | j :: js => if slotKey s i < slotKey s j then i :: j :: js else j :: insertSlot s i js

/-- The POSTED slots in the order of their keys, equal keys in ascending slot index (R194). -/
def takingOrder (s : State) : List SlotIx :=
  ((List.finRange 16).filter fun i => slotState s.page i == slotPosted).foldl (fun l i => insertSlot s i l) []

/-! ### Start and end of a sweep (R191, R193) -/

/-- The sweep ends: the count advances, and an interval that its SETUP_LOAD has loaded is installed (R191). -/
def endSweep (s : State) : State :=
  { s with
    sweeper :=
      { s.sweeper with
        count := s.sweeper.count + 1#16
        run := .idle
        interval := s.sweeper.nextInterval.getD s.sweeper.interval
        nextInterval := none } }

/-- The slots `order` are left to take; with none left the sweep ends. -/
def goOnWithSlots (order : List SlotIx) (s : State) : State :=
  if order.isEmpty then endSweep s else { s with sweeper := { s.sweeper with run := .slots order } }

/-- After the stream the sweeper finds the posted slots and fixes their order (R194). -/
def findSlots (s : State) : State := goOnWithSlots (takingOrder s) s

/-- The taken count is kept and written into header word 5 (R193). -/
def setTaken (w : Word) (s : State) : State :=
  { s with
    sweeper := { s.sweeper with taken := w }
    page := Page.writeWord s.page (headerBase + 5) w }

/-- The note stream has overrun: every pending entry is discarded (R193). -/
def overrunStream (posted : Word) (s : State) : State :=
  let n := satInc s.header.streamOverruns
  setCause causeStream
    { setTaken posted s with
      header := { s.header with streamOverruns := n }
      page := Page.writeWord (setTaken posted s).page (headerBase + 7) n }

/-- The posted count, header word 4 (R192). -/
def postedCount (s : State) : Word := Page.readWord s.page (headerBase + 4)

/-- A sweep starts (R191, R193). -/
def beginSweep (s : State) : State :=
  let s1 := { s with sweeper := { s.sweeper with pending := false } }
  let n := (postedCount s - s.sweeper.taken).toNat
  if 128 < n then findSlots (overrunStream (postedCount s) s1)
  else if n = 0 then findSlots s1
  else { s1 with sweeper := { s1.sweeper with run := .stream 0 n } }

/-- A sweep is requested: it starts at once, or becomes pending while one runs (R191). -/
def requestSweep (s : State) : State :=
  match s.sweeper.run with
  | .idle => beginSweep s
  | .stream _ _ => { s with sweeper := { s.sweeper with pending := true } }
  | .slots _ => { s with sweeper := { s.sweeper with pending := true } }

/-! ### The stream entry that is next (R192, R193) -/

/-- Entry number `done` after the taken count: index (taken count + done) mod 128. -/
def entryIndex (s : State) (done : Nat) : Fin 128 := ⟨(s.sweeper.taken.toNat + done) % 128, by omega⟩

/-- The stream entry that the running sweep reads next. -/
def nextEntry (s : State) : Option StreamEntry :=
  match s.sweeper.run with
  | .stream done _ => some (readEntry s.page (entryIndex s done))
  | .idle => none
  | .slots _ => none

/-- The entry just treated is done; after the last one the taken count advances over them all and the
request slots follow (R193). -/
def passEntry (s : State) : State :=
  match s.sweeper.run with
  | .stream done left =>
    if left ≤ 1 then findSlots (setTaken (s.sweeper.taken + wordOf (done + left)) s)
    else { s with sweeper := { s.sweeper with run := .stream (done + 1) (left - 1) } }
  | .idle => s
  | .slots _ => s

/-- An entry is rejected (R19). -/
def rejectEntry (s : State) : State :=
  let n := satInc s.header.rejected
  setCause causeStream
    { s with
      header := { s.header with rejected := n }
      page := Page.writeWord s.page (headerBase + 6) n }

/-- The sweeper takes the next stream entry if its kind byte passes the test: in RUN it is applied, in SETUP
discarded (R19, R193). With no such entry next there is nothing to take. -/
def takeEntry (isKind : Byte → Bool) (apply : StreamEntry → State → State) (s : State) : State :=
  match nextEntry s with
  | some e => if isKind e.kind then passEntry (if s.running then apply e s else s) else s
  | none => s

/-- An entry for the parts of an allowed part byte, one part whole before the next; rejected for any other
byte (R19). -/
def applyParts (parts : Option (List PartIx)) (f : PartIx → State → State) (s : State) : State :=
  match parts with
  | some ps => ps.foldl (fun t p => onPart p (f p) t) s
  | none => rejectEntry s

/-! ### The take of a request (R194 to R196) -/

/-- The slots at the head of the order that no longer show POSTED are passed over (R194). -/
def dropUnposted (p : Page) : List SlotIx → List SlotIx
  | [] => []
  | i :: is => if slotState p i = slotPosted then i :: is else dropUnposted p is

/-- The slot that the running sweep takes next. -/
def nextSlot (s : State) : Option SlotIx :=
  match s.sweeper.run with
  | .slots order => (dropUnposted s.page order).head?
  | .idle => none
  | .stream _ _ => none

/-- The sweeper passes over the slots that no longer show POSTED; a sweep with none left ends (R194). -/
def passOver (s : State) : State :=
  match s.sweeper.run with
  | .slots order => goOnWithSlots (dropUnposted s.page order) s
  | .idle => s
  | .stream _ _ => s

/-- The classes of requests (R196). -/
inductive ReqClass where
  | setup | run | any
  deriving DecidableEq, Repr

/-- The class is allowed in the run state (R196). -/
def ReqClass.allowed (c : ReqClass) (run : Bool) : Bool :=
  match c with
  | .setup => !run
  | .run => run
  | .any => true

/-- The request that a take of slot `i` makes. -/
def newRequest (s : State) (i : SlotIx) : Inflight := ⟨s.sweeper.nextId, i, slotTicket s.page i⟩

/-- The slot becomes TAKEN, its request joins the in-flight set and L becomes its ticket (R194). -/
def markTaken (r : Inflight) (s : State) : State :=
  { s with
    sweeper :=
      { s.sweeper with
        last := r.ticket
        nextId := s.sweeper.nextId + 1
        inflight := s.sweeper.inflight ++ [r] }
    page := Page.writeWord s.page (slotBase r.slot) slotTaken }

/-- What carries out a request: the new state, and the completion unless it stays in flight. -/
abbrev ReqBody := Inflight → List Word → State → State × Option Completion

/-- Carries a taken request out and writes a completion that it has at once (R196, R197). -/
def carryOut (cls : ReqClass) (body : ReqBody) (r : Inflight) (args : List Word) (s : State) : State :=
  if cls.allowed s.running then
    match body r args s with
    | (t, some c) => complete r c t
    | (t, none) => t
  else complete r (.refuse resWrongState 0) s

/-- The sweeper takes the next posted slot if its kind word passes the test, carries the request out and
goes on with the slots after it (R194, R196). -/
def takeRequest (isKind : Word → Bool) (cls : ReqClass) (body : ReqBody) (s : State) : State :=
  let s1 := passOver s
  match s1.sweeper.run with
  | .slots (i :: rest) =>
    if isKind (slotKind s1.page i) then
      let r := newRequest s1 i
      goOnWithSlots rest (carryOut cls body r (slotArgs s1.page i) (markTaken r s1))
    else s1
  | .slots [] => s1
  | .idle => s1
  | .stream _ _ => s1

/-! ### The writes of a CAPTURE (R125 to R127) -/

/-- The part and the frame of a CAPTURE, or the detail of the check that it fails (R125). -/
def captureArgs (args : List Word) : Except Nat (PartIx × Fin 4) :=
  if hp : 3 < (argAt args 0).toNat then .error 0
  else if hf : 3 < (argAt args 1).toNat then .error 1
  else .ok (⟨(argAt args 0).toNat, by omega⟩, ⟨(argAt args 1).toNat, by omega⟩)

/-- The first `n` of the 132 writes by which a CAPTURE of part `p` fills frame `f`: the parameter words, the
sum, the source part, the capture serial and the tag last (R126). -/
def writeFrame (n : Nat) (f : Fin 4) (p : PartIx) (s : State) : State :=
  let live := liveOf s p
  let g :=
    Page.writeWords (Page.writeWords s.page (frameBase f + 4) (live.toList.take n)) (frameBase f + 1)
      ([frameSum live, wordOf p.val, s.patch.captureCounter].take (n - 128))
  { s with page := if n < 132 then g else Page.writeWord g (frameBase f) frameTag }

/-- The slot, the part and the frame of the accepted CAPTURE that the running sweep takes next. -/
def capturing (s : State) : Option (SlotIx × PartIx × Fin 4) :=
  match nextSlot s with
  | none => none
  | some i =>
    if slotKind s.page i = reqCapture then
      match captureArgs (slotArgs s.page i) with
      | .ok (p, f) => some (i, p, f)
      | .error _ => none
    else none

/-- A soft reset that comes while a CAPTURE writes its frame (R127): the capture ends where it stands, with its
slot TAKEN and a part of its writes made. A CAPTURE command is a capture that runs to its end, so the capture
that a soft reset can still cut is the one the sweeper takes next. How far it has come is a free value (log
entry 24). -/
def cutCapture (s : State) : State :=
  match capturing s with
  | none => s
  | some (i, p, f) =>
    match Config.captureCut s.sweeper.nextId with
    | none => s
    | some n =>
      writeFrame n.val f p
        { s.writeWord (slotBase i) slotTaken with
          patch := { s.patch with captureCounter := s.patch.captureCounter + 1#16 } }

end Sys2Proof.Machine
end

