-- ==== Sys2Proof/Machine/HostCommands.lean ====
section
/-! DEFINITION. The host's bus cycles and the attention pulse: ATTN, ATTNEN, SWEEP and page writes, and
the sweep timer (R102, R181, R184, R185, R191). -/

namespace Sys2Proof.Machine

/-- The tune engine releases the held first fault and rewrites the log header (R102, R109). -/
def releaseFirstFault (s : State) : State :=
  let s1 := { s with tune := { s.tune with firstFault := none } }
  if s.tune.firstFault.isSome then publishStatus s1
  else s1.writeWords (statusBase + 5) (((statusWords s1.tune).drop 5).take 3)

/-- The host clears causes; a 1 in the TUNE bit releases the first fault whether or not TUNE was set
(R184). -/
def clearAttention (v : Word) (s : State) : State :=
  let s1 := { s with port := s.port.clearCauses (lowByte v) }
  if v.getLsbD 5 then releaseFirstFault s1 else s1

/-- ATTN_WRITE (R184). -/
def execAttnWrite (v : Word) (s : State) : Out := whenUp s (clearAttention v)

/-- ATTNEN_WRITE (R185). -/
def execAttnenWrite (v : Word) (s : State) : Out :=
  whenUp s fun s => { s with port := s.port.writeEnable v }

/-- ATTN_PULSE_END (R185). -/
def execAttnPulseEnd (s : State) : Out := whenUp s fun s => { s with port := s.port.endPulse }

/-- SWEEP_WRITE (R191): the value written does not matter. -/
def execSweepWrite (_v : Word) (s : State) : Out := whenUp s requestSweep

/-- HOST_PAGE_WRITE (R181). A slot sequence is whole within the step that makes it, so no write is ever
held. The page is written in every run state. -/
def execHostPageWrite (w : BitVec 13) (lane0 lane1 : Bool) (v : Word) (s : State) : Out :=
  .next { s with page := Page.writeLanes s.page w.toNat lane0 lane1 v }

/-- SWEEP_TIMER_EXPIRY (R191): with an interval of 0 the timer does not run. -/
def execSweepTimerExpiry (s : State) : Out :=
  whenUp s fun s => if s.sweeper.interval = 0#16 then s else requestSweep s

/-- A pending sweep starts once no sweep runs (R191). -/
def startPending (s : State) : State :=
  let s1 := passOver s
  if s1.sweeper.run = .idle ∧ s1.sweeper.pending = true then beginSweep s1 else s1

/-- SWEEP_START (R191). -/
def execSweepStart (s : State) : Out := whenUp s startPending

end Sys2Proof.Machine
end

