-- ==== Sys2Proof/Machine/PanelCommands.lean ====
section
/-! DEFINITION. The events of the panel (R149, R150, R156, R161). -/

namespace Sys2Proof.Machine

/-- POT_PASS_EXPIRY (R149). -/
def execPotPassExpiry (s : State) : Out := whenUp s expirePotTimer

/-- POT_CONVERSION (R150). -/
def execPotConversion (sample : BitVec 12) (s : State) : Out := whenUp s (finishConversion sample)

/-- SWITCH_ROW_SAMPLE (R156). -/
def execSwitchRowSample (cols : BitVec 8) (s : State) : Out := whenUp s (sampleRow cols)

/-- LED_ROW_TURN (R161). -/
def execLedRowTurn (s : State) : Out := whenUp s turnLedRow

end Sys2Proof.Machine
end

