-- ==== Sys2Proof/Machine/RequestCommands.lean ====
section
/-! DEFINITION. The requests: what each checks, does and answers (R15 to R18, R104, R106, R107, R119, R120,
R125, R126, R128 to R133, R178, R196, R198, R199). -/

namespace Sys2Proof.Machine

/-- A body that only completes. -/
def answer (c : Completion) (s : State) : State × Option Completion := (s, some c)

/-! ### SETUP_LOAD (R198, R199) -/

/-- The check of word `i` of the layout and timing block (R198 check 1). -/
def layoutOk (w : Nat → Word) (i : Nat) : Bool :=
  match i with
  | 1 => w 1 &&& w 0 == 0#16
  | 2 => w 2 &&& (w 0 ||| w 1) == 0#16
  | 3 => w 3 &&& (w 0 ||| w 1 ||| w 2) == 0#16
  | 4 => (w 4).toNat ≤ 208
  | 5 => (w 5).toNat ≤ 32
  | 6 => 2 ≤ (w 6).toNat && (w 6).toNat ≤ 16
  | 7 => (w 7).toNat ≤ 3
  | 8 => 1 ≤ (w 8).toNat && (w 8).toNat ≤ 15
  | 9 => (w 9).toNat ≤ 60000
  | _ => true

/-- The first word of the layout and timing block that fails its check. -/
def firstBadWord (w : Nat → Word) : Option Nat := (List.range 10).find? fun i => !layoutOk w i

/-- Reads `n` map entries from number `i` on, each checked against the earlier ones; the number of the first
that fails (R198 check 2). -/
def readMap (p : Page) : Nat → Nat → List CvSlot → Except Nat (List CvSlot)
  | _, 0, earlier => .ok earlier
  | i, n + 1, earlier =>
    match readMapEntry p i with
    | none => .error i
    | some x => if clashes earlier x then .error i else readMap p (i + 1) n (earlier ++ [x])

/-- The part whose mask names the voice. -/
def partIn (group : PartIx → Word) (v : VoiceIx) : Option PartIx :=
  (List.finRange 4).find? fun p => (group p).getLsbD v.val

/-- The voice groups take new masks, and every part record whose group changes is republished. -/
def setGroups (group : PartIx → Word) (s : State) : State :=
  (List.finRange 4).foldl (fun t p => t.changePart p fun x => { x with group := group p }) s

/-- The tables of a load that has passed every check are installed (R199). DEDUCED (log entry 21): the load
zeroes the stable-scan count of every switch, since it installs a debounce count (R157), also where that count
equals the one installed before; R159, by which a switch that stays used keeps its count, is read of the
descriptors alone. -/
def installLoad (w : Nat → Word) (map : List CvSlot) (descs : List AnyDesc) (s : State) : State :=
  let group := fun (p : PartIx) => w p.val
  let s1 := setGroups group (forVoices (fun v t => t.changeVoice v fun x => { x with part := partIn group v }) s)
  let s2 := descs.foldl (fun t d => installDesc d t) s1
  let s3 := (List.finRange 128).foldl (fun t i => setPickup i (loadedPickup (t.potDesc i).kind) t) s2
  let s4 := (List.finRange 64).foldl (fun t i => setSwitch i { t.switch i with stable := 0 } t) s3
  let s5 :=
    { s4 with
      port := { s4.port with loaded := true }
      sweeper := { s4.sweeper with nextInterval := some (w 5) }
      tune := { s4.tune with idleThreshold := w 9 }
      panel := { s4.panel with debounce := (w 8).toNat } }
  let s6 := loadMap { map := map, period := w 6 } s5
  (loadPeriod ⟨(w 7).toNat % 4, by omega⟩ s6).setSetupError .none 0#16

/-- A refused load: the detail region·256 + entry index, also in the header (R198). -/
def refuseLoad (region entry : Nat) (s : State) : State × Option Completion :=
  answer (.refuse resBadArgument (region * 256 + entry))
    (s.setSetupError .loadFailed (wordOf (region * 256 + entry)))

/-- SETUP_LOAD's checks, and the load (R198, R199). -/
def setupLoadBody : ReqBody := fun _ _ s =>
  let w := layoutWord s.page
  match firstBadWord w with
  | some i => refuseLoad 3 i s
  | none =>
    match readMap s.page 0 (w 4).toNat [] with
    | .error i => refuseLoad 1 i s
    | .ok map =>
      match firstBadDesc s.page (descRange 0 256) with
      | some d => refuseLoad 2 d.val s
      | none =>
        answer (.ok 0) (installLoad w map ((descRange 0 256).filterMap (readDesc s.page)) s)

/-- SETUP_LOAD (R198). -/
def execSetupLoad (s : State) : Out :=
  whenUp s (takeRequest (· == reqSetupLoad) .setup setupLoadBody)

/-! ### LAYOUT (R15) -/

/-- The lowest voice that more than one mask names. -/
def doublyNamed (group : PartIx → Word) : Option VoiceIx :=
  (List.finRange 16).find? fun v => 1 < ((List.finRange 4).filter fun p => (group p).getLsbD v.val).length

/-- Voice `v` goes to its new part: cut to FREE if it is active and the part differs (R15). -/
def moveVoice (group : PartIx → Word) (v : VoiceIx) (s : State) : State :=
  let x := s.voice v
  if x.part = partIn group v then s
  else
    ((if x.state.active then cutUnpublished false v s else s).modVoice v fun y =>
      { y with part := partIn group v }).publishVoice v x

/-- The voices that a LAYOUT cuts (R15). -/
def layoutCuts (group : PartIx → Word) (s : State) : Nat :=
  ((List.finRange 16).filter fun v =>
    (s.voice v).state.active && (s.voice v).part != partIn group v).length

def layoutBody : ReqBody := fun _ args s =>
  let group := fun (p : PartIx) => argAt args p.val
  match doublyNamed group with
  | some v => answer (.refuse resBadArgument v.val) s
  | none => answer (.ok (layoutCuts group s)) (setGroups group (forVoices (moveVoice group) s))

/-- LAYOUT (R15). -/
def execLayout (s : State) : Out := whenUp s (takeRequest (· == reqLayout) .run layoutBody)

/-! ### VOICE_SERVICE (R17, R18) -/

/-- Action OUT on voice `v` (R17). -/
def serviceOut (v : VoiceIx) (s : State) : State :=
  match (s.voice v).state with
  | .sounding | .held | .releasing | .stealing => cutVoice true v s
  | .free => s.changeVoice v (Voice.moveTo .out)
  | .tuning =>
    removeVoiceTargets v (s.changeVoice v fun x => ({ x with returnState := none } : Voice).moveTo .out)
  | .out => s

/-- Action IN on voice `v` (R18). -/
def serviceIn (v : VoiceIx) (s : State) : State :=
  let x := s.voice v
  if x.state = .out then s.changeVoice v (Voice.enterFree s.time)
  else if x.state = .tuning ∧ x.returnState = some .out then
    s.changeVoice v fun x => { x with returnState := some .free }
  else s

/-- The voices whose state action OUT changes, or whose state or return state action IN changes. -/
def serviceChanges (out : Bool) (x : Voice) : Bool :=
  if out then x.state != .out
  else x.state == .out || (x.state == .tuning && x.returnState == some .out)

def voiceServiceBody : ReqBody := fun _ args s =>
  let named : List VoiceIx := setBits 16 (argAt args 0)
  let run (out : Bool) (f : VoiceIx → State → State) :=
    answer (.ok (named.filter fun v => serviceChanges out (s.voice v)).length) (named.foldl (fun t v => f v t) s)
  if argAt args 1 = 0#16 then run true serviceOut
  else if argAt args 1 = 1#16 then run false serviceIn
  else answer (.refuse resBadArgument 0) s

/-- VOICE_SERVICE (R17, R18). -/
def execVoiceService (s : State) : Out :=
  whenUp s (takeRequest (· == reqVoiceService) .run voiceServiceBody)

/-! ### PARAM_WRITE (R119, R120) -/

/-- The pairs of a PARAM_WRITE, index and value words. -/
def pairsOf (args : List Word) (count : Nat) : List (Word × Word) :=
  (List.range count).map fun j => (argAt args (2 * j + 1), argAt args (2 * j + 2))

/-- One write of a PARAM_WRITE, but for its edit mark: the value, the lane cancelled, the router told (R120).
The number counts the lanes cancelled. -/
def hostWrite (p : PartIx) (i : ParamIx) (v : Word) (r : State × Nat) : State × Nat :=
  (reportWrite p i (cancelLane p i (setLive p i v r.1)), r.2 + if (laneOn r.1 p i).isSome then 1 else 0)

/-- The writes of one part, and then its edit marks, reported once (R118, R120). -/
def hostWrites (pairs : List (ParamIx × Word)) (p : PartIx) (r : State × Nat) : State × Nat :=
  let w := pairs.foldl (fun q x => hostWrite p x.1 x.2 q) r
  (w.1.changePart p fun x => { x with marks := pairs.foldl (fun m y => m ||| markOf y.1) x.marks }, w.2)

def paramWriteBody : ReqBody := fun _ args s =>
  let count := (highByte (argAt args 0)).toNat
  let parts := maskParts (lowByte (argAt args 0))
  if count = 0 ∨ 4 < count then answer (.refuse resBadArgument 0) s
  else if parts.isEmpty then answer (.refuse resBadArgument 0) s
  else
    match (List.range count).find? fun j => 127 < (argAt args (2 * j + 1)).toNat with
    | some j => answer (.refuse resBadArgument (j + 1)) s
    | none =>
      let pairs := (pairsOf args count).map fun x => ((⟨x.1.toNat % 128, by omega⟩ : ParamIx), x.2)
      let r := parts.foldl (fun q p => hostWrites pairs p q) (s, 0)
      answer (.ok r.2) r.1

/-- PARAM_WRITE (R120). -/
def execParamWrite (s : State) : Out := whenUp s (takeRequest (· == reqParamWrite) .any paramWriteBody)

/-! ### CAPTURE (R125, R126) -/

/-- A CAPTURE's checks, and the whole of it (R125, R126). -/
def captureBody : ReqBody := fun _ args s =>
  match captureArgs args with
  | .error d => answer (.refuse resBadArgument d) s
  | .ok (p, f) =>
    let serial := s.patch.captureCounter + 1#16
    let s1 := writeFrame 132 f p { s with patch := { s.patch with captureCounter := serial } }
    answer ⟨resOk, 0#16, serial⟩ (s1.changePart p fun x => { x with marks := 0#128 })

/-- CAPTURE (R126). -/
def execCapture (s : State) : Out := whenUp s (takeRequest (· == reqCapture) .any captureBody)

/-! ### RECALL (R128 to R133) -/

/-- An accepted RECALL treats its parts in ascending order, and stays in flight if it then owns a context
(R132). -/
def acceptRecall (r : Inflight) (t : Nat) (copy : Vector Word 128) (parts : List PartIx) (s : State) :
    State × Option Completion :=
  let s1 :=
    { s with
      patch :=
        { s.patch with recalls := s.patch.recalls ++ [{ req := r, partsLost := 0, lanesCancelled := 0, copy := copy }] } }
  let s2 := parts.foldl (fun u p => recallPart r t copy p u) s1
  if ownsContext s2 r.id then (s2, none) else answer (.ok 0) (releaseRecall r.id s2)

def recallBody : ReqBody := fun r args s =>
  if hf : 3 < (argAt args 0).toNat then answer (.refuse resBadArgument 0) s
  else
    let parts := maskParts (argAt args 1)
    let t := (argAt args 2).toNat
    let f : Fin 4 := ⟨(argAt args 0).toNat, by omega⟩
    let copy := frameParams s.page f
    if parts.isEmpty then answer (.refuse resBadArgument 1) s
    else if 60000 < t then answer (.refuse resBadArgument 2) s
    else if Page.readWord s.page (frameBase f) ≠ frameTag then answer (.refuse resBadFrame 1) s
    else if Page.readWord s.page (frameBase f + 1) ≠ frameSum copy then answer (.refuse resBadFrame 2) s
    else acceptRecall r t copy parts s

/-- RECALL (R132). -/
def execRecall (s : State) : Out := whenUp s (takeRequest (· == reqRecall) .run recallBody)

/-! ### ROUTE (R178) -/

def routeBody : ReqBody := fun _ args s =>
  let first := (argAt args 0).toNat
  let count := (argAt args 1).toNat
  if 255 < first ∨ count = 0 ∨ 256 < count ∨ 256 < first + count then answer (.refuse resBadArgument 0x100) s
  else
    match firstBadDesc s.page (descRange first count) with
    | some d => answer (.refuse resBadArgument d.val) s
    | none =>
      let descs := (descRange first count).filterMap (readDesc s.page)
      answer (.ok (descs.filter (descChanges s)).length)
        ((rerouted s descs).foldl (fun t i => routePickup i t) (descs.foldl (fun t d => installDesc d t) s))

/-- ROUTE (R178). -/
def execRoute (s : State) : Out := whenUp s (takeRequest (· == reqRoute) .run routeBody)

/-! ### TUNE, TUNE_ABORT and TABLE_IMPORT (R104, R106, R107) -/

/-- Word `i` of a TUNE's arguments is in range (R104 check 2). -/
def tuneArgOk (args : List Word) (i : Nat) : Bool :=
  match i with
  | 3 | 4 | 5 => (argAt args i).toNat ≤ 1
  | 8 => 1 ≤ (argAt args 8).toNat && (argAt args 8).toNat ≤ 50
  | 9 => (argAt args 9).toNat ≤ 3
  | _ => true

/-- The mask words as the host wrote them. -/
def maskArg (args : List Word) : BitVec 48 := targetMask (argAt args 0) (argAt args 1) (argAt args 2)

/-- The targets a mask names: all ones name every mapped target (section 4.5). -/
def namedTargets (s : State) (m : BitVec 48) : List TargetIx :=
  if m = BitVec.allOnes 48 then (List.finRange 48).filter fun t => mapped s t else setBits 48 m

/-- The mask with the bits of the given targets set. -/
def maskOf (ts : List TargetIx) : BitVec 48 := ts.foldl (fun m t => m ||| bitMask 48 t.val) 0#48

/-- An accepted TUNE with at least one target stays in flight, its targets queued in ascending order
(R83, R104). -/
def acceptTune (r : Inflight) (args : List Word) (ts : List TargetIx) (s : State) : State :=
  publishStatus
    { s with
      tune :=
        { s.tune with
          queue := ts.map fun t => ⟨t, 0⟩
          req := some
            { req := r, quick := argAt args 3 == 1#16, idleSched := argAt args 4 == 1#16
              yieldPolicy := argAt args 5 == 1#16, faultMask := argAt args 6, severityMask := argAt args 7
              tolerance := (argAt args 8).toNat, timeoutCode := (argAt args 9).toNat
              named := maskOf ts, committed := 0#48, fatal := 0#48 } } }

/-- A TUNE's checks, and the TUNE (R104). The detail 0 of a refusal BUSY, and the remaining count 0 of every
refusal here, are given by no rule: DESIGN CHOICE (log entry 20). -/
def tuneBody : ReqBody := fun r args s =>
  if s.tune.req.isSome then answer (.refuse resBusy 0) s
  else
    match (List.range 10).find? fun i => !tuneArgOk args i with
    | some i => answer (.refuse resBadArgument i) s
    | none =>
      let ts := namedTargets s (maskArg args)
      match ts.find? fun t => !mapped s t with
      | some t => answer (.refuse resBadArgument (0x100 + t.val)) s
      | none => if ts.isEmpty then answer (.ok 0) s else (acceptTune r args ts s, none)

/-- TUNE (R104). -/
def execTune (s : State) : Out := whenUp s (takeRequest (· == reqTune) .run tuneBody)

/-- A TUNE_ABORT (R106). Its own remaining count 0 is given by no rule: DESIGN CHOICE (log entry 20). -/
def tuneAbortBody : ReqBody := fun _ _ s =>
  if s.tune.req.isSome then answer (.ok 1) (abortTune s) else answer (.ok 0) s

/-- TUNE_ABORT (R106). -/
def execTuneAbort (s : State) : Out := whenUp s (takeRequest (· == reqTuneAbort) .run tuneAbortBody)

/-- The target is queued or being tuned (R83). -/
def tuneHolds (s : State) (t : TargetIx) : Bool :=
  (s.tune.job.any fun j => j.target == t) || s.tune.queue.any fun e => e.target == t

/-- The words of the target's entry of the tune area. -/
def importWords (p : Page) (t : TargetIx) : List Word := Page.readWords p (tuneBase t) 10

/-- The points of a list rise strictly. -/
def strictlyRising : List Word → Bool
  | a :: b :: rest => decide (a < b) && strictlyRising (b :: rest)
  | _ => true

/-- Why the entry of target `t` is refused, if it is (R107 check 2). -/
def importFault (p : Page) (t : TargetIx) : Option Completion :=
  let ws := importWords p t
  let drift := (ws.getD 9 0#16).toInt
  if !strictlyRising (ws.take 9) then some (.refuse resNotMonotonic t.val)
  else if drift < -128 ∨ 127 < drift then some (.refuse resBadArgument t.val)
  else none

/-- Target `t` takes its table and drift from its entry (R107). -/
def importTarget (p : Page) (t : TargetIx) (s : State) : State :=
  let ws := importWords p t
  setTarget t
    { table := Vector.ofFn fun k => ws.getD k.val 0#16
      drift := BitVec.ofInt 8 (ws.getD 9 0#16).toInt
      health := .tuned
      serial := (s.target t).serial + 1#16 } s

/-- A TABLE_IMPORT's checks, and the import (R107). Its remaining count 0, refused or OK, is given by
no rule: DESIGN CHOICE (log entry 20). -/
def tableImportBody : ReqBody := fun _ args s =>
  let ts := namedTargets s (maskArg args)
  match ts.find? (tuneHolds s) with
  | some t => answer (.refuse resBusy t.val) s
  | none =>
    match ts.findSome? (importFault s.page) with
    | some c => answer c s
    | none => answer (.ok ts.length) (ts.foldl (fun u t => importTarget s.page t u) s)

/-- TABLE_IMPORT (R107). -/
def execTableImport (s : State) : Out := whenUp s (takeRequest (· == reqTableImport) .any tableImportBody)

/-- UNKNOWN_KIND (R196): taken whatever the run state, and completed UNKNOWN_KIND. -/
def execUnknownKind (s : State) : Out :=
  whenUp s (takeRequest (fun k => !knownRequest k) .any fun _ _ s => answer (.refuse resUnknownKind 0) s)

end Sys2Proof.Machine
end

