-- ==== Sys2Proof/Machine/RunStateCommands.lean ====
section
/-! DEFINITION. The commands that change the run state: RESET_N, the power-on INIT, GO, STOP and
SOFT_RESET (R78, R79, R110, R143, R187 to R190). -/

namespace Sys2Proof.Machine

/-- RESET_N goes active: all work in flight is abandoned and every output is held at rest (R79, R187). What
a power-on INIT installs is left to it. -/
def holdReset (s : State) : State :=
  { s with
    page :=
      Page.writeWords (Page.writeWord s.page (headerBase + 1) RunState.init.code) (headerBase + 10) [0#16, 0#16]
    port := { s.port with run := .init, attnLine := false }
    header := { s.header with lastPass := 0#16, refreshOverruns := 0#16 }
    sweeper := { s.sweeper with run := .idle, pending := false, interval := 0#16, nextInterval := none, inflight := [] }
    voices := Vector.ofFn fun v =>
      { s.voices[v] with gateOut := false, gap := .passed, damp := none, window := none }
    refresh := resetRefresh s.refresh.dac s.refresh.holds
    tune := { s.tune with engine := .idle, job := none, queue := [], req := none, select := 0 }
    patch := { s.patch with contexts := Vector.replicate 4 none, recalls := [] }
    panel := resetPanel s.panel.pots s.panel.switches false }

/-- RESET_N_ACTIVE (R187). -/
def execResetNActive (s : State) : Out := .next (holdReset s)

/-- POWER_ON_INIT (R187): the reset state, whatever stood before it; the hold outputs and the DAC keep what
they were last given (R79), and the model's own count of takes and soft resets goes on (log entry 24). -/
def execPowerOnInit (s : State) : Out :=
  .next (State.powerOn s.pending s.sweeper.nextId s.refresh.dac s.refresh.holds)

/-- GO is accepted: RUN, STATE set (R189). -/
def enterRun (s : State) : State :=
  forVoices (fun v t => t.changeVoice v id) (setCause causeState (s.setRun .run))

/-- GO (R189). -/
def execGo (s : State) : Out :=
  match s.port.run with
  | .init => .next s
  | .run => .next s
  | .setup => .next (if s.port.loaded then enterRun s else s.setSetupError .notLoaded 0#16)

/-- STOP is accepted: SETUP, STATE set; the tune is aborted and its voice returned, then the active voices
are cut, and every morph freezes (R190). R106 has the tune's voice return before the others are cut. No rule says
whether the ABORTED completion of the TUNE is written before those of the RECALLs, which shows only where the two
hold one slot and ticket (R197): the model writes that of the TUNE first, DESIGN CHOICE (log entry 23). -/
def leaveRun (s : State) : State :=
  stopPatch (stopAllocator (abortTune (setCause causeState (s.setRun .setup))))

/-- STOP (R190). -/
def execStop (s : State) : Out :=
  match s.port.run with
  | .init => .next s
  | .setup => .next s
  | .run => .next (leaveRun s)

/-- A slot that shows TAKEN, as the page holds it, is marked FAILED with RESET (R188 step 3). -/
def failTaken (p : Page) (i : SlotIx) : Page :=
  if slotState p i = slotTaken then
    Page.writeWord (Page.writeWords p (slotBase i + 13) [resReset, 0#16, 0#16]) (slotBase i) slotFailed
  else p

/-- A soft INIT (R188), with the reset values of every block (R13, R14, R65, R79, R110, R115, R124, R143,
R154, R160, R163, R166). DEDUCED (log entry 19): a slot that does not show TAKEN keeps its state word. R195's
table has FREE written by both INITs, but R188 gives a soft INIT no such write and R195 itself says that the
part does not free slots, so the FREE of the table is the power-on INIT's alone. -/
def softInit (s : State) : State :=
  let holds :=
    match s.refresh.turn with
    | some t => s.refresh.holds.set t.slot.address.toNat (some t.code)
    | none => s.refresh.holds
  let marked := (List.finRange 16).any fun i => slotState s.page i == slotTaken
  let page := (List.finRange 16).foldl failTaken s.page
  let posted := Page.readWord page (headerBase + 4)
  let voices : Vector Voice 16 := Vector.ofFn fun v =>
    resetVoice s.time (hasFailed s.tune.recs v) ((s.voices[v]).changeCount + 1#16)
  let parts : Vector Part 4 := Vector.ofFn fun p => resetPart ((s.parts[p]).changeCount + 1#16)
  let pots : Vector Pot 128 := Vector.ofFn fun i => resetPot (s.panel.pots[i]).changeCount
  let switches : Vector Switch 64 := Vector.ofFn fun i =>
    resetSwitch (s.panel.switches[i]).presses (s.panel.switches[i]).releases
  let panel := resetPanel pots switches true
  let tune := resetTune s.tune.recs s.tune.offers
  { pending := s.pending
    page := Page.writeHeader (Page.publishAll page voices parts panel tune) .setup resetHeader posted s.time
    time := s.time
    port :=
      { run := .setup, loaded := false
        attn := causeState ||| (if marked then causeSlot else 0#8)
        attnEnable := 0#8, attnPulse := false, attnLine := false }
    header := resetHeader
    sweeper := resetSweeper posted (s.sweeper.nextId + 1)
    voices := voices
    parts := parts
    sequence := 0#32
    refresh := resetRefresh s.refresh.dac holds
    tune := tune
    patch := resetPatch
    router := resetRouter
    panel := panel }

/-- SOFT_RESET (R188): a capture that it cuts ends where it stands (R127). Written while RESET_N holds the part in INIT, it starts the power-on INIT that is
to come from its first step (R187), which changes nothing. -/
def execSoftReset (s : State) : Out := whenUp s fun t => softInit (cutCapture t)

end Sys2Proof.Machine
end

