-- ==== Sys2Proof/Machine/StreamCommands.lean ====
section
/-! DEFINITION. The note stream entries (R19, R20, R22, R33, R34, R36, R37). -/

namespace Sys2Proof.Machine

/-- NOP (R20): taken and skipped. -/
def execNop (s : State) : Out := whenUp s (takeEntry (· == kindNop) fun _ s => s)

/-- A NOTE_ON entry in RUN (R20, R22): with velocity 0 it is a NOTE_OFF. -/
def applyNoteOn (e : StreamEntry) (s : State) : State :=
  applyParts ((onePart e.part).map fun p => [p])
    (fun p =>
      if e.velocity = 0#8 then stopNote p (clampKey e.note)
      else playNote p ⟨clampKey e.note, clampKey e.velocity, e.tag⟩) s

/-- NOTE_ON (R22). -/
def execNoteOn (s : State) : Out := whenUp s (takeEntry (· == kindNoteOn) applyNoteOn)

/-- A NOTE_OFF entry in RUN (R33, R41). -/
def applyNoteOff (e : StreamEntry) (s : State) : State :=
  applyParts ((onePart e.part).map fun p => [p]) (fun p => stopNote p (clampKey e.note)) s

/-- NOTE_OFF (R33). -/
def execNoteOff (s : State) : Out := whenUp s (takeEntry (· == kindNoteOff) applyNoteOff)

/-- A HOLD_ON entry in RUN (R34). -/
def applyHoldOn (e : StreamEntry) (s : State) : State := applyParts (someParts e.part) (setSustain true) s

/-- HOLD_ON (R34). -/
def execHoldOn (s : State) : Out := whenUp s (takeEntry (· == kindHoldOn) applyHoldOn)

/-- A HOLD_OFF entry in RUN (R34). -/
def applyHoldOff (e : StreamEntry) (s : State) : State := applyParts (someParts e.part) (setSustain false) s

/-- HOLD_OFF (R34). -/
def execHoldOff (s : State) : Out := whenUp s (takeEntry (· == kindHoldOff) applyHoldOff)

/-- A BEND entry in RUN (R37). -/
def applyBend (e : StreamEntry) (s : State) : State := applyParts (someParts e.part) (setBend (clampBend e.bend)) s

/-- BEND (R37). -/
def execBend (s : State) : Out := whenUp s (takeEntry (· == kindBend) applyBend)

/-- An ALL_OFF entry in RUN (R36). -/
def applyAllOff (e : StreamEntry) (s : State) : State := applyParts (someParts e.part) allOffPart s

/-- ALL_OFF (R36). -/
def execAllOff (s : State) : Out := whenUp s (takeEntry (· == kindAllOff) applyAllOff)

/-- REJECTED_STREAM_ENTRY (R19): an entry whose kind is not in the table. -/
def execRejectedStreamEntry (s : State) : Out :=
  whenUp s (takeEntry (fun k => !knownKind k) fun _ s => rejectEntry s)

end Sys2Proof.Machine
end

