-- ==== Sys2Proof/Machine/TimerCommands.lean ====
section
/-! DEFINITION. The timers of the voices, the part time, the glide and the morph (R30, R31, R51, R75, R134,
R183). An expiry acts only while its timer runs: a timer that has been stopped delivers none (R7). -/

namespace Sys2Proof.Machine

/-- DAMP_EXPIRY (R30). -/
def execDampExpiry (v : VoiceIx) (s : State) : Out :=
  whenUp s fun s => if (s.voice v).damp.isSome ∧ (s.voice v).state = .stealing then endDamp v s else s

/-- RELEASE_WINDOW_EXPIRY (R31). -/
def execReleaseWindowExpiry (v : VoiceIx) (s : State) : Out :=
  whenUp s fun s => if (s.voice v).window.isSome ∧ (s.voice v).state = .releasing then endWindow v s else s

/-- GAP_END (R75): the gate unit takes the end of a gap that the part time has reached. -/
def execGapEnd (v : VoiceIx) (s : State) : Out :=
  whenUp s fun s =>
    if (s.voice v).gap = .due then s.changeVoice v fun x => { x with gap := .passed } else s

/-- A gap whose end the part time `t` has reached is due (R75). -/
def Voice.reachGap (t : Long) (x : Voice) : Voice :=
  if x.gap = .running ∧ x.gapUntil = t then { x with gap := .due } else x

/-- The part time advances by one and is written to the header (R183). -/
def tick (s : State) : State :=
  let t := s.time + 1#32
  forVoices (fun v u => u.modVoice v (Voice.reachGap t)) { s with time := t, page := Page.writeTime s.page t }

/-- PART_TIME_TICK (R183). -/
def execPartTimeTick (s : State) : Out := whenUp s tick

/-- The glide step of voice `v` (R51): not in TUNING or OUT. -/
def glideVoice (v : VoiceIx) (s : State) : State :=
  let x := s.voice v
  if x.state = .tuning ∨ x.state = .out then s
  else s.setVoice v (stepGlide (x.part.map fun p => decodeGlideTime (s.param p pGlideTime)) x)

/-- GLIDE_STEP_EXPIRY (R51). -/
def execGlideStepExpiry (s : State) : Out := whenUp s (forVoices glideVoice)

/-- MORPH_STEP_EXPIRY (R134): the contexts step, and end, in ascending part order. The rules give no order of the
contexts within one expiry, and where two RECALLs end at it and both were taken from one slot under one ticket,
the order decides which completion is written and which is dropped (R136, R139, R197): DESIGN CHOICE (log entry
23). -/
def execMorphStepExpiry (s : State) : Out :=
  whenUp s fun s => (List.finRange 4).foldl (fun t p => stepContext p t) s

end Sys2Proof.Machine
end

