-- ==== Sys2Proof/Machine/TuneCommands.lean ====
section
/-! DEFINITION. The events of the tune engine and of the refresh engine (R66, R68, R86, R90, R91). -/

namespace Sys2Proof.Machine

/-- The first eligible queue entry, if the engine is IDLE (R85, R86). -/
def takeable (s : State) : Option QueueEntry :=
  match s.tune.engine, s.tune.req with
  | .idle, some r => s.tune.queue.find? (eligible s r)
  | _, _ => none

/-- TARGET_TAKE (R86): the four steps of the take. -/
def execTargetTake (s : State) : Out :=
  whenUp s fun s =>
    match takeable s with
    | some e => takeTarget e (reserveVoice (voiceOf e.target) s)
    | none => s

/-- MEASURE is entered and the gate timeout starts (R90, R91). -/
def enterMeasure (s : State) : State :=
  publishStatus
    { s with
      tune :=
        { s.tune with
          engine := .measure
          job := s.tune.job.map fun j => { j with windowOpen := false, timer := gateTimeoutOf s } } }

/-- SETTLE_EXPIRY (R90). -/
def execSettleExpiry (s : State) : Out :=
  whenUp s fun s => if s.tune.engine = .settle then enterMeasure s else s

/-- MEASUREMENT_WINDOW_OPEN (R91, R93). -/
def execMeasurementWindowOpen (s : State) : Out :=
  whenUp s fun s => if s.tune.engine = .measure then modJob (fun j => { j with windowOpen := true }) s else s

/-- The measurement window is open. -/
def measuring (s : State) : Bool := s.tune.engine == .measure && (s.tune.job.map (·.windowOpen)).getD false

/-- MEASUREMENT_WINDOW_CLOSE (R91 to R99). -/
def execMeasurementWindowClose (n : BitVec 32) (s : State) : Out :=
  whenUp s fun s => if measuring s then closeWindow n s else s

/-- GATE_TIMEOUT (R91): the attempt fails NO_SIGNAL. -/
def execGateTimeout (s : State) : Out :=
  whenUp s fun s => if s.tune.engine = .measure then failAttempt .noSignal s else s

/-- REFRESH_PERIOD_EXPIRY (R66, R69). -/
def execRefreshPeriodExpiry (s : State) : Out := whenUp s expirePeriod

/-- SLOT_WRITTEN_EVENT (R68). -/
def execSlotWrittenEvent (s : State) : Out := whenUp s endTurn

end Sys2Proof.Machine
end

