-- ==== Sys2Proof/Machine/Dispatch.lean ====
section
/-! DEFINITION. One arm per command: what it does to everything but the queue. -/

namespace Sys2Proof.Machine

def exec (i : Instr) (s : State) : Host.Outcome State Fault Refusal :=
  match i with
  | .resetNActive => Sys2Proof.Machine.execResetNActive s
  | .powerOnInit => Sys2Proof.Machine.execPowerOnInit s
  | .go => Sys2Proof.Machine.execGo s
  | .stop => Sys2Proof.Machine.execStop s
  | .softReset => Sys2Proof.Machine.execSoftReset s
  | .attnWrite v => Sys2Proof.Machine.execAttnWrite v s
  | .attnenWrite v => Sys2Proof.Machine.execAttnenWrite v s
  | .attnPulseEnd => Sys2Proof.Machine.execAttnPulseEnd s
  | .sweepWrite v => Sys2Proof.Machine.execSweepWrite v s
  | .hostPageWrite w lane0 lane1 v => Sys2Proof.Machine.execHostPageWrite w lane0 lane1 v s
  | .sweepTimerExpiry => Sys2Proof.Machine.execSweepTimerExpiry s
  | .sweepStart => Sys2Proof.Machine.execSweepStart s
  | .nop => Sys2Proof.Machine.execNop s
  | .noteOn => Sys2Proof.Machine.execNoteOn s
  | .noteOff => Sys2Proof.Machine.execNoteOff s
  | .holdOn => Sys2Proof.Machine.execHoldOn s
  | .holdOff => Sys2Proof.Machine.execHoldOff s
  | .bend => Sys2Proof.Machine.execBend s
  | .allOff => Sys2Proof.Machine.execAllOff s
  | .dampExpiry v => Sys2Proof.Machine.execDampExpiry v s
  | .releaseWindowExpiry v => Sys2Proof.Machine.execReleaseWindowExpiry v s
  | .gapEnd v => Sys2Proof.Machine.execGapEnd v s
  | .partTimeTick => Sys2Proof.Machine.execPartTimeTick s
  | .glideStepExpiry => Sys2Proof.Machine.execGlideStepExpiry s
  | .morphStepExpiry => Sys2Proof.Machine.execMorphStepExpiry s
  | .setupLoad => Sys2Proof.Machine.execSetupLoad s
  | .layout => Sys2Proof.Machine.execLayout s
  | .voiceService => Sys2Proof.Machine.execVoiceService s
  | .paramWrite => Sys2Proof.Machine.execParamWrite s
  | .capture => Sys2Proof.Machine.execCapture s
  | .recall => Sys2Proof.Machine.execRecall s
  | .route => Sys2Proof.Machine.execRoute s
  | .tune => Sys2Proof.Machine.execTune s
  | .tuneAbort => Sys2Proof.Machine.execTuneAbort s
  | .tableImport => Sys2Proof.Machine.execTableImport s
  | .unknownKind => Sys2Proof.Machine.execUnknownKind s
  | .targetTake => Sys2Proof.Machine.execTargetTake s
  | .settleExpiry => Sys2Proof.Machine.execSettleExpiry s
  | .measurementWindowClose n => Sys2Proof.Machine.execMeasurementWindowClose n s
  | .gateTimeout => Sys2Proof.Machine.execGateTimeout s
  | .refreshPeriodExpiry => Sys2Proof.Machine.execRefreshPeriodExpiry s
  | .slotWrittenEvent => Sys2Proof.Machine.execSlotWrittenEvent s
  | .potPassExpiry => Sys2Proof.Machine.execPotPassExpiry s
  | .potConversion sample => Sys2Proof.Machine.execPotConversion sample s
  | .switchRowSample cols => Sys2Proof.Machine.execSwitchRowSample cols s
  | .ledRowTurn => Sys2Proof.Machine.execLedRowTurn s
  | .measurementWindowOpen => Sys2Proof.Machine.execMeasurementWindowOpen s
  | .rejectedStreamEntry => Sys2Proof.Machine.execRejectedStreamEntry s

end Sys2Proof.Machine
end

