-- ==== Sys2Proof/Machine/HostBus.lean ====
section
/-! DEFINITION. The cycles of the host bus, from the pins to the commands: which register or page word a
cycle reaches, and which command a written register word is (R180 to R182, R186; section 11.10). -/

namespace Sys2Proof.Machine

/-- One cycle of the host bus, as the pins hold it: true is an active select or an enabled lane. -/
structure BusCycle where
  /-- PSEL_N is active. -/
  pageSelect : Bool
  /-- RSEL_N is active. -/
  registerSelect : Bool
  /-- A1–A13, A1 in bit 0. -/
  address : BitVec 13
  lane0 : Bool
  lane1 : Bool
  /-- D0–D15 of a write. -/
  data : Word
  deriving DecidableEq, Repr

/-- The command that the word `v` written to PSTAT is: any value but the three codes is ignored (R186). -/
def pstatCommand (v : Word) : Option Instr :=
  if v = 0x0001#16 then some .go
  else if v = 0x0002#16 then some .stop
  else if v = 0x00C3#16 then some .softReset
  else none

/-- The command that the word `v` is, written to the register that A2 and A1 select (R182, section 11.10). -/
def registerCommand (a2 a1 : Bool) (v : Word) : Option Instr :=
  match a2, a1 with
  | false, false => pstatCommand v
  | false, true => some (.attnWrite v)
  | true, false => some (.attnenWrite v)
  | true, true => some (.sweepWrite v)

/-- The command that a write cycle brings: of a register with RSEL_N active, whose byte lanes and A3–A13 do
not count; of a page word with PSEL_N active; none with both or neither active (R180 to R182). -/
def BusCycle.write (b : BusCycle) : Option Instr :=
  match b.pageSelect, b.registerSelect with
  | false, true => registerCommand (b.address.getLsbD 1) (b.address.getLsbD 0) b.data
  | true, false => some (.hostPageWrite b.address b.lane0 b.lane1 b.data)
  | true, true => none
  | false, false => none

/-- What a read cycle drives on D0–D15: the selected register's value, or both bytes of the page word;
`none` where D0–D15 are not driven (R181, R182). A read changes nothing. -/
def BusCycle.read (b : BusCycle) (s : State) : Option Word :=
  match b.pageSelect, b.registerSelect with
  | false, true => some (readRegister (b.address.getLsbD 1) (b.address.getLsbD 0) s)
  | true, false => some (Page.readWord s.page b.address.toNat)
  | true, true => none
  | false, false => none

/-- A write cycle of the host: its command, where it brings one, waits behind those that came before it
(log entry 1). -/
def State.busWrite (b : BusCycle) (s : State) : State := { s with pending := s.pending ++ b.write.toList }

end Sys2Proof.Machine
end

