-- ==== Sys2Proof/Safety.lean ====
section
/-! DEFINITION. The terms in which statements about the machine are made: frames of the page, what a
sweep treats next, the records that the rules say an event leaves, and the invariants of the state.
Nothing of the machine is defined here. -/

namespace Sys2Proof.Machine

/-! ### Frames of the page -/

/-- Byte offset `k` lies in one of the `n` words from word `w` on. -/
def inWords (w n k : Nat) : Prop := 2 * w ≤ k ∧ k < 2 * (w + n)

/-- Byte offset `k` lies in the record of voice `v`. -/
def inVoice (v : VoiceIx) (k : Nat) : Prop := inWords (voiceBase v) 16 k

/-- Byte offset `k` lies in the record of part `p`. -/
def inPart (p : PartIx) (k : Nat) : Prop := inWords (partBase p) 32 k

/-- Byte offset `k` lies in the tune status block. -/
def inStatus (k : Nat) : Prop := inWords statusBase 32 k

/-- Every byte outside `area` reads in `q` as it reads in `p`. -/
def sameOutside (area : Nat → Prop) (p q : Page) : Prop :=
  ∀ k, ¬ area k → Page.readByte q k = Page.readByte p k

/-! ### Run states -/

/-- The part is in SETUP or RUN, so that commands act. -/
def State.up (s : State) : Prop := s.port.run ≠ .init

/-! ### What a sweep treats next -/

/-- The running sweep reads the stream entry `e` next, in RUN. -/
def State.reads (s : State) (e : StreamEntry) : Prop := s.port.run = .run ∧ nextEntry s = some e

/-- The command that takes a stream entry with kind byte `k`. -/
def entryCommand (k : Byte) : Instr :=
  match k.toNat with
  | 0 => .nop
  | 1 => .noteOn
  | 2 => .noteOff
  | 3 => .holdOn
  | 4 => .holdOff
  | 5 => .bend
  | 6 => .allOff
  | _ => .rejectedStreamEntry

/-- The parts that an entry acts on, `none` where R19 rejects it. -/
def StreamEntry.parts (e : StreamEntry) : Option (List PartIx) :=
  match e.kind.toNat with
  | 0 => some []
  | 1 | 2 => (onePart e.part).map fun p => [p]
  | 3 | 4 | 5 | 6 => someParts e.part
  | _ => none

/-- The note, velocity and tag of a NOTE_ON, brought into range (R20). -/
def StreamEntry.info (e : StreamEntry) : NoteInfo := ⟨clampKey e.note, clampKey e.velocity, e.tag⟩

/-- The sweep reads a NOTE_ON of part `p` with a velocity that is not 0. -/
def State.playsNote (s : State) (p : PartIx) (e : StreamEntry) : Prop :=
  s.reads e ∧ e.kind = kindNoteOn ∧ onePart e.part = some p ∧ e.velocity ≠ 0#8

/-- The sweep reads an entry that releases note `n` of part `p`: a NOTE_OFF, or a NOTE_ON of velocity 0. -/
def State.releasesNote (s : State) (p : PartIx) (n : Key) (c : Instr) : Prop :=
  ∃ e, s.reads e ∧ onePart e.part = some p ∧ clampKey e.note = n ∧
    ((c = .noteOff ∧ e.kind = kindNoteOff) ∨ (c = .noteOn ∧ e.kind = kindNoteOn ∧ e.velocity = 0#8))

/-- The sweep takes slot `i` next, which shows POSTED; the slots `rest` follow. -/
def State.atSlot (s : State) (i : SlotIx) (rest : List SlotIx) : Prop :=
  s.up ∧ s.sweeper.run = .slots (i :: rest) ∧ slotState s.page i = slotPosted

/-- The commands that take a request. -/
def requestCommands : List Instr :=
  [.setupLoad, .layout, .voiceService, .paramWrite, .capture, .recall, .route, .tune, .tuneAbort, .tableImport,
    .unknownKind]

/-- The argument word w`j` of slot `i`. -/
def State.arg (s : State) (i : SlotIx) (j : Nat) : Word := Page.readWord s.page (slotBase i + 3 + j)

/-- The run-class requests and the commands that take them (R196). -/
def runRequests : List (Instr × Word) :=
  [(.layout, reqLayout), (.voiceService, reqVoiceService), (.recall, reqRecall), (.route, reqRoute),
    (.tune, reqTune), (.tuneAbort, reqTuneAbort)]

/-- Word w`k` of the layout and timing block fails its check (R198 check 1). -/
def State.layoutFails (s : State) (k : Nat) : Prop :=
  let w (i : Nat) : Word := Page.readWord s.page (0x12F0 + i)
  (1 ≤ k ∧ k ≤ 3 ∧ ∃ j, j < k ∧ ∃ v : VoiceIx, (w j).getLsbD v.val = true ∧ (w k).getLsbD v.val = true) ∨
  (k = 4 ∧ 208 < (w 4).toNat) ∨ (k = 5 ∧ 32 < (w 5).toNat) ∨ (k = 6 ∧ ((w 6).toNat < 2 ∨ 16 < (w 6).toNat)) ∨
  (k = 7 ∧ 3 < (w 7).toNat) ∨ (k = 8 ∧ ((w 8).toNat < 1 ∨ 15 < (w 8).toNat)) ∨ (k = 9 ∧ 60000 < (w 9).toNat)

/-- Word `j` of entry `i` of the CV map setup area (section 11.9). -/
def State.mapWord (s : State) (i j : Nat) : Word := Page.readWord s.page (0x0C10 + 6 * i + j)

/-- Entry `i` of the CV map setup area fails its check against the entries before it (R198 check 2). -/
def State.mapFails (s : State) (i : Nat) : Prop :=
  let kind (k : Nat) : Nat := (lowByte (s.mapWord k 0)).toNat
  let owner (k : Nat) : Nat := (lowByte (s.mapWord k 1)).toNat
  4 < kind i ∨
  ¬ (owner i ≤ 15 ∨ (kind i = 3 ∧ 0x80 ≤ owner i ∧ owner i ≤ 0x83)) ∨
  (kind i = 3 ∧ 127 < (highByte (s.mapWord i 1)).toNat) ∨
  s.mapWord i 4 ≤ s.mapWord i 3 ∨
  ((s.mapWord i 0).getLsbD 9 = true ∧ (s.mapWord i 5 < s.mapWord i 3 ∨ s.mapWord i 4 < s.mapWord i 5)) ∨
  ∃ j, j < i ∧ (lowByte (s.mapWord j 2) = lowByte (s.mapWord i 2) ∨
    (kind i ≤ 2 ∧ kind j = kind i ∧ owner j = owner i))

/-- Descriptor `d`, 0 to 255, of the control descriptor area fails its check (R168). -/
def State.descFails (s : State) (d : Nat) : Prop :=
  let w0 := Page.readWord s.page (0x10F0 + 2 * d)
  let w1 := Page.readWord s.page (0x10F0 + 2 * d + 1)
  let kind := (lowByte w0).toNat
  let noPart := highByte w0 &&& 0x0F#8 = 0#8
  let index := (lowByte w1).toNat
  if d < 128 then
    3 < kind ∨ (1 ≤ kind ∧ highByte w1 &&& 0x0F#8 = 0#8) ∨ (2 ≤ kind ∧ noPart) ∨ (kind = 2 ∧ 127 < index)
  else if d < 192 then
    5 < kind ∨ (2 ≤ kind ∧ noPart) ∨ (2 ≤ kind ∧ kind ≤ 4 ∧ 127 < index)
  else
    4 < kind ∨ (kind = 1 ∧ 63 < index) ∨ ((kind = 2 ∨ kind = 4) ∧ 15 < index) ∨ (kind = 3 ∧ 127 < index)

/-- The CV map count in the layout and timing block. -/
def State.mapCount (s : State) : Nat := (Page.readWord s.page (0x12F0 + 4)).toNat

/-- A SETUP_LOAD of the page as it stands is refused at `entry` of `region`: the first check that fails, in the
order of R198. -/
def State.loadFails (s : State) (region entry : Nat) : Prop :=
  (region = 3 ∧ s.layoutFails entry ∧ ∀ k, k < entry → ¬ s.layoutFails k) ∨
  ((∀ k, ¬ s.layoutFails k) ∧
    ((region = 1 ∧ entry < s.mapCount ∧ s.mapFails entry ∧ ∀ i, i < entry → ¬ s.mapFails i) ∨
      ((∀ i, i < s.mapCount → ¬ s.mapFails i) ∧
        region = 2 ∧ entry < 256 ∧ s.descFails entry ∧ ∀ d, d < entry → ¬ s.descFails d)))

/-- A SETUP_LOAD of the page as it stands passes every check (R198). -/
def State.loadPasses (s : State) : Prop :=
  (∀ k, ¬ s.layoutFails k) ∧ (∀ i, i < s.mapCount → ¬ s.mapFails i) ∧ ∀ d, d < 256 → ¬ s.descFails d

/-- The slot `c` is the one that entry `i` of the CV map setup area describes (R64, section 11.9). What a kind
does not use is held as 0 (log entry 10). -/
def State.mapEntryIs (s : State) (i : Nat) (c : CvSlot) : Prop :=
  let owner := (lowByte (s.mapWord i 1)).toNat
  [SlotKind.pitchA, .pitchB, .cutoff, .level, .velocity][(lowByte (s.mapWord i 0)).toNat]? = some c.kind ∧
  c.longDwell = (s.mapWord i 0).getLsbD 8 ∧
  (∀ v : VoiceIx, c.owner = .voice v ↔ owner = v.val) ∧
  (∀ p : PartIx, c.owner = .part p ↔ owner = 0x80 + p.val) ∧
  c.param.val = (if c.kind = .level then (highByte (s.mapWord i 1)).toNat else 0) ∧
  c.address = lowByte (s.mapWord i 2) ∧ c.low = s.mapWord i 3 ∧ c.high = s.mapWord i 4 ∧
  c.tuneCode = (if (s.mapWord i 0).getLsbD 9 then some (s.mapWord i 5) else none)

/-- Word `j` of descriptor `d` of the control descriptor area (section 11.9). -/
def State.descWord (s : State) (d j : Nat) : Word := Page.readWord s.page (0x10F0 + 2 * d + j)

/-- The descriptor `x` is the one that the words of pot `k` describe (R166, section 11.9). What a kind does not
use is held as 0 (log entry 10). -/
def State.potDescIs (s : State) (k : PotIx) (x : PotDesc) : Prop :=
  let w0 := s.descWord k.val 0
  let w1 := s.descWord k.val 1
  [PotKind.unused, .report, .param, .bend][(lowByte w0).toNat]? = some x.kind ∧
  x.hysteresis = (if x.kind = .unused then 0#4 else (highByte w1).setWidth 4) ∧
  x.mask = (if x.kind = .param ∨ x.kind = .bend then (highByte w0).setWidth 4 else 0#4) ∧
  x.window = (if x.kind = .param ∨ x.kind = .bend then (highByte w1 >>> 4).setWidth 4 else 0#4) ∧
  x.pass = (x.kind == .param && w0.getLsbD 15) ∧
  x.param.val = (if x.kind = .param then (lowByte w1).toNat else 0)

/-- The descriptor `x` is the one that the words of switch `k` describe (R167, section 11.9; log entry 10). -/
def State.switchDescIs (s : State) (k : SwitchIx) (x : SwitchDesc) : Prop :=
  let w0 := s.descWord (128 + k.val) 0
  let writes := x.kind = .toggle ∨ x.kind = .momentary ∨ x.kind = .step
  [SwitchKind.unused, .report, .toggle, .momentary, .step, .sustain][(lowByte w0).toNat]? = some x.kind ∧
  (x.mask.toNat = if writes ∨ x.kind = .sustain then (highByte w0).toNat % 16 else 0) ∧
  x.pressReport = (x.kind != .unused && w0.getLsbD 12) ∧
  x.releaseReport = (x.kind != .unused && w0.getLsbD 13) ∧
  (writes → x.param.val = (lowByte (s.descWord (128 + k.val) 1)).toNat) ∧ (¬ writes → x.param = 0)

/-- The descriptor `x` is the one that the words of LED `k` describe (R167, section 11.9). -/
def State.ledDescIs (s : State) (k : LedIx) (x : LedDesc) : Prop :=
  let source := (lowByte (s.descWord (192 + k.val) 0)).toNat
  let index := (lowByte (s.descWord (192 + k.val) 1)).toNat
  match x with
  | .unused => source = 0
  | .image b => source = 1 ∧ index = b.val
  | .gate v => source = 2 ∧ index = v.val
  | .detached i => source = 3 ∧ index = i.val
  | .tuning v => source = 4 ∧ index = v.val

/-- Argument word w`k` of the TUNE in slot `i` is in range (R104). -/
def State.tuneArgInRange (s : State) (i : SlotIx) (k : Nat) : Bool :=
  if k = 3 ∨ k = 4 ∨ k = 5 then decide ((s.arg i k).toNat ≤ 1)
  else if k = 8 then decide (1 ≤ (s.arg i k).toNat ∧ (s.arg i k).toNat ≤ 50)
  else if k = 9 then decide ((s.arg i k).toNat ≤ 3)
  else true

/-- The target mask in w0 to w2 of slot `i`, the low word first. -/
def State.maskArg (s : State) (i : SlotIx) : BitVec 48 := s.arg i 2 ++ s.arg i 1 ++ s.arg i 0

/-- The targets that the mask of slot `i` names, ascending: all ones name every mapped target (R104, R107). -/
def State.namedBy (s : State) (i : SlotIx) : List TargetIx :=
  (List.finRange 48).filter fun t =>
    if s.maskArg i = BitVec.allOnes 48 then mapped s t else (s.maskArg i).getLsbD t.val

/-- Target `t` is queued or being tuned (R83). -/
def State.inTune (s : State) (t : TargetIx) : Prop :=
  (∃ j, s.tune.job = some j ∧ j.target = t) ∨ ∃ e ∈ s.tune.queue, e.target = t

/-- The nine points of target `t`'s entry of the tune area rise strictly (R107). -/
def State.pointsRise (s : State) (t : TargetIx) : Prop :=
  ∀ k, k < 8 → Page.readWord s.page (tuneBase t + k) < Page.readWord s.page (tuneBase t + k + 1)

/-- Target `t`'s entry passes the checks of an import (R107). -/
def State.importable (s : State) (t : TargetIx) : Prop :=
  s.pointsRise t ∧ -128 ≤ (Page.readWord s.page (tuneBase t + 9)).toInt ∧
    (Page.readWord s.page (tuneBase t + 9)).toInt ≤ 127

/-- The request that the take of slot `i` makes. -/
def State.request (s : State) (i : SlotIx) : Inflight := ⟨s.sweeper.nextId, i, slotTicket s.page i⟩

/-- The running sweep takes slot `i` next, and finds there a CAPTURE of part `p` into frame `f` that passes its
checks (R125, R194). -/
def State.captures (s : State) (i : SlotIx) (p f : Fin 4) : Prop :=
  nextSlot s = some i ∧ slotKind s.page i = reqCapture ∧ (s.arg i 0).toNat = p.val ∧ (s.arg i 1).toNat = f.val

/-- The page word to which write `k` of a CAPTURE into frame `f` goes: the parameter words, the sum, the source
part, the serial, and the tag last (R126). -/
def captureWord (f : Fin 4) (k : Nat) : Nat := frameBase f + if k < 128 then 4 + k else if k < 131 then k - 127 else 0

/-- What write `k` of a CAPTURE of part `p` writes (R122, R124, R126). -/
def State.captureValue (s : State) (p : PartIx) (k : Nat) : Word :=
  if h : k < 128 then s.param p ⟨k, h⟩
  else if k = 128 then wordOf ((List.finRange 128).map fun j => (s.param p j).toNat).sum
  else if k = 129 then wordOf p.val
  else if k = 130 then s.patch.captureCounter + 1#16
  else 0x5A31#16

/-- `s` after the take of slot `i`, before the request has had any effect (R194). -/
def State.taken (s : State) (i : SlotIx) : State :=
  { s with
    sweeper :=
      { s.sweeper with
        last := slotTicket s.page i
        nextId := s.sweeper.nextId + 1
        inflight := s.sweeper.inflight ++ [s.request i] }
    page := Page.writeWord s.page (slotBase i) slotTaken }

/-- The request of slot `i` has brought the machine to `u`: its completion is written, and the sweep goes on
with the slots `rest`. -/
def State.completes (s : State) (i : SlotIx) (rest : List SlotIx) (c : Completion) (u : State) : State :=
  goOnWithSlots rest (complete (s.request i) c u)

/-! ### Records that events leave -/

/-- The part record with which a NOTE_ON is handled: latched if the part is idle (R21). -/
def State.latched (s : State) (p : PartIx) : Part :=
  if s.idlePart p then
    { s.part p with
      mode := decodePartMode (s.param p pPartMode)
      unison := decodeUnison (s.param p pUnisonCount)
      held := if decodePartMode (s.param p pPartMode) = .poly then [] else (s.part p).held }
  else s.part p

/-- The part record once the note of the NOTE_ON `e` has entered the held-note list of a mono part (R38). -/
def State.entered (s : State) (p : PartIx) (e : StreamEntry) : Part :=
  if (s.latched p).mode = .poly then s.latched p
  else { s.latched p with held := heldInsert e.info.note (s.latched p).held }

/-- The note that a NOTE_ON plays on newly chosen voices: its own, or the priority note of a mono part with
its velocity and tag (R38). -/
def State.played (s : State) (p : PartIx) (e : StreamEntry) : NoteInfo :=
  if (s.latched p).mode = .poly then e.info
  else { e.info with note := (priorityNote (s.latched p).mode (s.entered p e).held).getD e.info.note }

/-- The voices of the part that hold note `n` for reuse, ascending (R23). -/
def State.holders (s : State) (p : PartIx) (n : Key) : List VoiceIx :=
  (s.voicesOf p).filter fun v => holdsNote (s.voice v) n

/-- The voices that the tier search chooses for a note of the part, in the order chosen (R24). -/
def State.chosen (s : State) (p : PartIx) : List VoiceIx :=
  chooseVoices s (min (s.latched p).unison.toNat (s.voicesOf p).length) (s.voicesOf p)

/-- The NOTE_ON `e` looks for voices: no voice of a POLY part holds its note, or the part is a mono part and
idle (R22, R38). -/
def State.allocates (s : State) (p : PartIx) (e : StreamEntry) : Prop :=
  if (s.latched p).mode = .poly then s.holders p e.info.note = [] else s.idlePart p = true

/-- Voice `v` has no mapped pitch slot, so that its pitch-written flag is set at once (R73). -/
def State.unmappedVoice (s : State) (v : VoiceIx) : Bool :=
  (List.finRange 3).all fun j => !mapsPitch s.refresh.map v j

/-- The record moved to the state `st`, with the state before it the newest of three (R3). -/
def Voice.into (st : VoiceState) (x : Voice) : Voice :=
  { x with state := st, prev1 := x.state, prev2 := x.prev1, prev3 := x.prev2 }

/-- The glide target of note `n` on part `p` (R49). -/
def State.targetOfNote (s : State) (p : PartIx) (n : Key) : BitVec 15 :=
  BitVec.ofNat 15 (clampPitch (256 * ((n.val : Int) + decodeSemitones (s.param p pTranspose))))

/-- The accumulator at a note start: it stays where the voice glides and is at the target `g` where it
jumps (R50). -/
def State.glideAtStart (s : State) (p : PartIx) (connected : Bool) (g : BitVec 15) (x : Voice) : BitVec 31 :=
  if (connected || decodeGlideAlways (s.param p pGlideMode)) && decodeGlideTime (s.param p pGlideTime) != 0 then
    x.glide
  else BitVec.ofNat 31 (g.toNat * 65536)

/-- The record with the pitch of note `n` set at a note start event. -/
def State.pitched (s : State) (p : PartIx) (connected : Bool) (n : Key) (x : Voice) : Voice :=
  { x with
    glideTarget := s.targetOfNote p n
    glide := s.glideAtStart p connected (s.targetOfNote p n) x }

/-- The record with the pitch-written flag cleared and the written set emptied (R73). -/
def State.unwritten (s : State) (v : VoiceIx) (x : Voice) : Voice :=
  { x with
    pitchWritten := s.unmappedVoice v
    writtenA := false
    writtenB := false
    writtenF := false }

/-- The record of voice `v` when the note `n` of part `p` has started on it in state `st` (R26, R30), the
gate output re-evaluated. -/
def State.startedRecord (s : State) (st : VoiceState) (p : PartIx) (n : NoteInfo) (v : VoiceIx) (x : Voice) :
    Voice :=
  let y := (s.unwritten v (s.pitched p false n.note x)).into st
  ({ y with note := some n, pending := none, returnState := none, damp := none, window := none,
            gateRequest := true } : Voice).regate s.running

/-- The record with a retrigger gap begun (R42). -/
def State.gapped (s : State) (v : VoiceIx) (x : Voice) : Voice :=
  { s.unwritten v x with gapUntil := s.time + 2#32, gap := .running }

/-- The record of a SOUNDING or HELD voice that takes the note `n` with a retrigger gap (R23, R40, R42). -/
def State.retriggered (s : State) (p : PartIx) (connected : Bool) (n : NoteInfo) (v : VoiceIx) (x : Voice) : Voice :=
  let y := s.gapped v (s.pitched p connected n.note { x with note := some n })
  (if x.state = .sounding then y else y.into .sounding).regate s.running

/-- The record of a voice of the mono set that follows a change of the priority note to `n` (R40). `entry` is
the NOTE_ON being applied, where its note is `n`. -/
def State.followed (s : State) (p : PartIx) (n : Key) (entry : Option NoteInfo) (connected : Bool) (v : VoiceIx)
    (x : Voice) : Voice :=
  let renoted (q : NoteInfo) : NoteInfo := entry.getD { q with note := n }
  let info := renoted (x.note.getD ⟨n, 0, 0#16⟩)
  match x.state with
  | .sounding =>
    if decodeLegato (s.param p pLegato) && connected then
      (s.pitched p true n { x with note := some info }).regate s.running
    else s.retriggered p connected info v x
  | .held => s.retriggered p connected info v x
  | .stealing => ({ x with pending := x.pending.map fun q => ⟨renoted q.info, false⟩ } : Voice).regate s.running
  | .free | .releasing | .tuning | .out => x

/-- The record of a voice of part `p` in its release window (R31), with the release stamp `r`; with a window
of 0 ms it has passed on to FREE, one change more. -/
def State.released (s : State) (p : PartIx) (r : Long) (x : Voice) : Voice :=
  let w := decodeWindow (s.param p pReleaseWindow)
  let y := ({ x.into .releasing with gateRequest := false, gateOut := false, releaseStamp := r, window := some w } : Voice).counted
  if w = 0 then ({ y.into .free with note := none, window := none, freeSince := s.time } : Voice).counted else y

/-- The record of a voice that has been stolen for the note `n` with the stamps `r` and `a` (R28). -/
def State.stolen (s : State) (p : PartIx) (n : NoteInfo) (i k : Nat) (r a : Long) (x : Voice) : Voice :=
  { x.into .stealing with
    gateRequest := false
    gateOut := false
    releaseStamp := r
    ageStamp := a
    window := none
    pending := some ⟨n, false⟩
    damp := some (decodeDamp (s.param p pDampTime))
    unisonIndex := BitVec.ofNat 8 i
    unisonCount := BitVec.ofNat 8 k }

/-- The record of a voice that has been cut to `st` with the release stamp `r` (R7). -/
def State.cutRecord (s : State) (st : VoiceState) (r : Long) (x : Voice) : Voice :=
  { x.into st with
    gateRequest := false
    gateOut := false
    releaseStamp := r
    gapUntil := s.time
    gap := .passed
    note := none
    pending := none
    damp := none
    window := none
    freeSince := if st = .free then s.time else x.freeSince }

/-- How many voices before `v` in the list `vs` have their gate request on: the release stamps that are taken
before its own when the voices of `vs` turn their requests off in that order. -/
def State.gatedBefore (s : State) (vs : List VoiceIx) (v : VoiceIx) : Nat :=
  ((vs.takeWhile fun w => w != v).filter fun w => (s.voice w).gateRequest).length

/-- The release stamp of voice `v` after the voices `vs` have turned their gate requests off in that order
(R4): a new one where the request was on, and the old one where it was off. -/
def State.releaseStampOf (s : State) (vs : List VoiceIx) (v : VoiceIx) : Long :=
  if (s.voice v).gateRequest then s.sequence + 1#32 + BitVec.ofNat 32 (s.gatedBefore vs v)
  else (s.voice v).releaseStamp

/-- The counter has room for `n` more stamps, so that none of them renumbers (R5). -/
def State.roomFor (s : State) (n : Nat) : Prop := s.sequence.toNat + n < 2 ^ 32

/-- Where the stamp `t` stands among the nonzero stamps of its kind, counted from 1 by old value (R5). -/
def State.rank (s : State) (stamp : Voice → Long) (t : Long) : Nat :=
  ((List.finRange 16).filter fun v => stamp (s.voice v) != 0#32 && decide (stamp (s.voice v) ≤ t)).length

/-- The number of voices with a nonzero stamp of the kind. -/
def State.stampCount (s : State) (stamp : Voice → Long) : Nat :=
  ((List.finRange 16).filter fun v => stamp (s.voice v) != 0#32).length

/-- The record of voice `v` after a renumbering (R5): the k nonzero age stamps become 1 to k and the nonzero
release stamps k + 1 to m, each kind in its old order; a record that this changes is published once. -/
def State.renumberedVoice (s : State) (v : VoiceIx) : Voice :=
  let x := s.voice v
  let a := if x.ageStamp = 0#32 then 0#32 else BitVec.ofNat 32 (s.rank (·.ageStamp) x.ageStamp)
  let r :=
    if x.releaseStamp = 0#32 then 0#32
    else BitVec.ofNat 32 (s.stampCount (·.ageStamp) + s.rank (·.releaseStamp) x.releaseStamp)
  { x with
    ageStamp := a
    releaseStamp := r
    changeCount := if a = x.ageStamp ∧ r = x.releaseStamp then x.changeCount else x.changeCount + 1#16 }

/-- The counter after a renumbering: m (R5). -/
def State.renumberedCount (s : State) : Nat := s.stampCount (·.ageStamp) + s.stampCount (·.releaseStamp)

/-! ### The choice of a NOTE_ON (R24 to R28) -/

/-- How many stamps the choice of voice `v` takes: an age stamp, and before it a release stamp where a voice
whose gate request is on is stolen (R4, R28). -/
def State.stampsOf (s : State) (v : VoiceIx) : Nat :=
  if (s.voice v).state = .free ∨ (s.voice v).state = .tuning then 1
  else if (s.voice v).gateRequest then 2
  else 1

/-- The last stamp issued before the `i`-th of the chosen voices `vs` takes its own. -/
def State.stampBefore (s : State) (vs : List VoiceIx) (i : Nat) : Long :=
  s.sequence + BitVec.ofNat 32 ((vs.take i).map s.stampsOf).sum

/-- The record of voice `v`, chosen as number `i` of `k` for the note `n` of part `p` when the counter stands at
`q` (R25 to R28, R30): a FREE or TUNING voice starts the note; another is stolen, and a damp of 0 ms ends at
once in the start. The change counts rest on log entry 9, the order of a stolen voice's stamps is log entry 16. -/
def State.assigned (s : State) (p : PartIx) (n : NoteInfo) (i k : Nat) (q : Long) (v : VoiceIx) : Voice :=
  let x := s.voice v
  if x.state = .free ∨ x.state = .tuning then
    (s.startedRecord .sounding p n v
      { x with ageStamp := q + 1#32, unisonIndex := BitVec.ofNat 8 i, unisonCount := BitVec.ofNat 8 k }).counted
  else
    let r := if x.gateRequest then q + 1#32 else x.releaseStamp
    let a := if x.gateRequest then q + 2#32 else q + 1#32
    let y := (s.stolen p n i k r a x).counted
    if decodeDamp (s.param p pDampTime) = 0 then (s.startedRecord .sounding p n v y).counted else y

/-! ### The tier of a candidate (R24, R25) -/

/-- The tier, 0 for (a) to 4 for (e), in which a voice is a candidate, and its place in the tier: the stamp
that orders it, 0 where the tier goes by voice number alone. -/
def State.tier (s : State) (v : VoiceIx) : Option (Nat × Long) :=
  match (s.voice v).state with
  | .free => some (0, (s.voice v).releaseStamp)
  | .releasing => some (1, (s.voice v).releaseStamp)
  | .tuning =>
    if (s.tune.req.map (·.yieldPolicy)).getD false ∧ (s.voice v).returnState = some .free then some (2, 0#32) else none
  | .held => some (3, (s.voice v).ageStamp)
  | .sounding => some (4, (s.voice v).ageStamp)
  | .stealing | .out => none

/-- A candidate `x` with voice number `v` comes before a candidate `y` with voice number `w`, or is it. -/
def tierLe (x : Nat × Long) (v : VoiceIx) (y : Nat × Long) (w : VoiceIx) : Prop :=
  x.1 < y.1 ∨ (x.1 = y.1 ∧ (x.2 < y.2 ∨ (x.2 = y.2 ∧ v ≤ w)))

/-! ### Invariants -/

/-- The optional fields, the gate request and the timers of a voice are those of its state (R2). -/
def Voice.fits (x : Voice) : Prop :=
  x.note.isSome = x.state.active ∧
  x.pending.isSome = (x.state == .stealing) ∧
  x.returnState.isSome = (x.state == .tuning) ∧
  x.gateRequest = (x.state == .sounding || x.state == .held) ∧
  (x.damp.isSome → x.state = .stealing) ∧
  (x.window.isSome → x.state = .releasing)

/-- Every voice fits its state, its timer runs while the part is up, its gate output follows the gate rule
(R74), and the voice of the current target is TUNING, the only one that is while the part is up (R86, R88). The
tune engine is IDLE exactly while it has no current target, and without a TUNE in flight it has neither target
nor queue (R84, R105). In SETUP no TUNE is in flight and every voice is FREE or OUT (R78). -/
def State.VoicesFit (s : State) : Prop :=
  (∀ v, (s.voice v).fits ∧ (s.voice v).gateOut = (s.voice v).gateRule s.running) ∧
  (s.up → ∀ v, ((s.voice v).state = .stealing → (s.voice v).damp.isSome) ∧
    ((s.voice v).state = .releasing → (s.voice v).window.isSome)) ∧
  (∀ j, s.tune.job = some j → (s.voice (voiceOf j.target)).state = .tuning) ∧
  (s.tune.engine = .idle ↔ s.tune.job = none) ∧
  (s.tune.req = none → s.tune.job = none ∧ s.tune.queue = []) ∧
  (s.up → ∀ v, (s.voice v).state = .tuning → ∃ j, s.tune.job = some j ∧ voiceOf j.target = v) ∧
  (s.port.run = .setup → s.tune.req = none ∧ ∀ v, (s.voice v).state = .free ∨ (s.voice v).state = .out)

/-- Every held-note list is without duplicates and at most 16 long (R39), and empty in a part latched POLY
(R22). -/
def State.ListsFit (s : State) : Prop :=
  ∀ p, (s.part p).held.Nodup ∧ (s.part p).held.length ≤ 16 ∧ ((s.part p).mode = .poly → (s.part p).held = [])

/-- Every installed table, and every partial table of a FULL search, is strictly increasing (R80, R96). -/
def State.TablesRise (s : State) : Prop :=
  (∀ t, (s.target t).table.toList.Pairwise (· < ·)) ∧
  (∀ j, s.tune.job = some j →
    match j.point with
    | .full k => j.newTable.length = k.val ∧ j.newTable.Pairwise (· < ·)
    | .quick => True)

/-- A voice's part field names the part whose group holds the voice (R10). -/
def State.GroupsAgree (s : State) : Prop :=
  ∀ v p, (s.voice v).part = some p ↔ (s.part p).group.getLsbD v.val = true

/-- No stamp is above the counter, and nonzero stamps of one kind are distinct (R4). -/
def State.StampsDistinct (s : State) : Prop :=
  ∀ v, (s.voice v).ageStamp ≤ s.sequence ∧ (s.voice v).releaseStamp ≤ s.sequence ∧
    ∀ w, v ≠ w →
      ((s.voice v).ageStamp = (s.voice w).ageStamp → (s.voice v).ageStamp = 0#32) ∧
      ((s.voice v).releaseStamp = (s.voice w).releaseStamp → (s.voice v).releaseStamp = 0#32)

/-- A morph time of 1 to 60000 ms, at least one lane, at most one for a parameter, start and target
different, and the live value of a lane's parameter between them; for a stepped one, one of the two
(R130, R134, R135). -/
def State.LanesRun (s : State) : Prop :=
  ∀ p c, s.context p = some c →
    1 ≤ c.morphTime ∧ c.morphTime ≤ 60000 ∧ c.lanes ≠ [] ∧ (c.lanes.map (·.param)).Nodup ∧
    ∀ l ∈ c.lanes, l.start ≠ l.target ∧
      ((l.start ≤ s.param p l.param ∧ s.param p l.param ≤ l.target) ∨
        (l.target ≤ s.param p l.param ∧ s.param p l.param ≤ l.start)) ∧
      ((paramSteps l.param).isSome → s.param p l.param = l.start ∨ s.param p l.param = l.target)

/-- The requests that the blocks still work on: the RECALLs that own contexts, and the TUNE. -/
def State.working (s : State) : List Inflight :=
  s.patch.recalls.map (·.req) ++ (s.tune.req.map (·.req)).toList

/-- The in-flight set holds exactly the requests that the blocks work on, each under an `id` of its own; a
RECALL is among them while, and only while, it owns a context (R131, R196). -/
def State.RequestsHeld (s : State) : Prop :=
  s.sweeper.inflight.Perm s.working ∧
  (s.working.map (·.id)).Nodup ∧
  (∀ r ∈ s.working, r.id < s.sweeper.nextId) ∧
  (∀ p c, s.context p = some c → ∃ r ∈ s.patch.recalls, r.req.id = c.owner) ∧
  (∀ r ∈ s.patch.recalls, ∃ p c, s.context p = some c ∧ c.owner = r.req.id)

/-- What SETUP_LOAD checks of a CV map (R64): at most 208 slots, low below high, a tune code within the bounds,
DAC addresses unique, and no pitch kind given twice to a voice. -/
def mapValid (m : List CvSlot) : Prop :=
  m.length ≤ 208 ∧
  (∀ c ∈ m, c.low < c.high ∧ (∀ x, c.tuneCode = some x → c.low ≤ x ∧ x ≤ c.high) ∧
    (∀ p, c.owner = .part p → c.kind = .level)) ∧
  m.Pairwise fun c d => c.address ≠ d.address ∧ (c.kind.pitchIndex.isSome → ¬ (c.kind = d.kind ∧ c.owner = d.owner))

/-- The installed map holds `c` as the pitch slot of target `t` (R64). -/
def State.pitchSlot (s : State) (t : TargetIx) (c : CvSlot) : Prop :=
  c ∈ s.refresh.map ∧ c.kind.pitchIndex = some (pitchPlace t) ∧ c.owner = .voice (voiceOf t)

/-- The installed CV map, and one whose installation waits, are valid (R64), and so is every installed pot and
switch descriptor (R168); and the current trial code lies within the bounds of its target's pitch slot in the
installed map (R71, R80). -/
def State.TablesValid (s : State) : Prop :=
  mapValid s.refresh.map ∧ (∀ n, s.refresh.next = some n → mapValid n.map) ∧
  (∀ i, (s.potDesc i).kind = .unused ∨
    ((s.potDesc i).hysteresis ≠ 0#4 ∧ ((s.potDesc i).kind = .report ∨ (s.potDesc i).mask ≠ 0#4))) ∧
  (∀ i : SwitchIx, (s.router.switches[i]).kind = .unused ∨ (s.router.switches[i]).kind = .report ∨
    (s.router.switches[i]).mask ≠ 0#4) ∧
  ∀ j c, s.tune.job = some j → s.pitchSlot j.target c → c.low ≤ j.code ∧ j.code ≤ c.high

/-- In level mode ATTN is active exactly while a cause is both set and enabled (R185). -/
def State.AttnLevel (s : State) : Prop :=
  s.up → s.port.attnPulse = false → (s.port.attnLine = true ↔ s.port.attn &&& s.port.attnEnable ≠ 0#8)

/-- The lines of the refresh engine and of the pot scanner follow their work: at rest while no pass runs
(R65), and in a slot's turn its address and code (R67); in a conversion the multiplexer channel and the ADC
input of its pot (R150). -/
def State.LinesFollow (s : State) : Prop :=
  (s.refresh.turn = none →
    s.refresh.address = 0#8 ∧ s.refresh.lines = { dsync := true, shsN := true, dclk := false, ddata := false }) ∧
  (∀ t, s.refresh.turn = some t →
    s.refresh.address = t.slot.address ∧ s.refresh.dac = some t.code ∧ s.refresh.lines.dsync = true ∧
      s.refresh.lines.shsN = true) ∧
  ∀ c, s.panel.conversion = some c →
    s.panel.potSelect.toNat = c.pot.val % 16 ∧ s.panel.adcInput.val = c.pot.val / 16

/-- The page shows the record of voice `v` (R8). -/
def State.showsVoice (s : State) (v : VoiceIx) : Prop :=
  Page.readWords s.page (voiceBase v) 16 = voiceWords (s.voice v)

/-- The page shows the record of part `p` (R12, R200). -/
def State.showsPart (s : State) (p : PartIx) : Prop :=
  Page.readWords s.page (partBase p) 32 = partWords (s.part p) ++ (s.part p).changeCount :: List.replicate 8 0#16

/-- The page shows the record of target `t` (R82). -/
def State.showsTarget (s : State) (t : TargetIx) : Prop :=
  Page.readWords s.page (tuneBase t) 12 = tuneWords (s.target t)

/-- The tune status block shows the tune engine (R109). -/
def State.showsStatus (s : State) : Prop := Page.readWords s.page statusBase 32 = statusWords s.tune

/-- The page shows the record of pot `i` (R148, R174). -/
def State.showsPot (s : State) (i : PotIx) : Prop :=
  Page.readWords s.page (potBase i) 4 = potWords (s.pot i) ++ [pickupWord (s.pot i)]

/-- The page shows the record of switch `i` (R155). -/
def State.showsSwitch (s : State) (i : SwitchIx) : Prop :=
  Page.readWords s.page (switchBase i) 2 = switchWords (s.switch i)

/-- What the part holds for the header word `w`, where it writes that word (R183). -/
def State.headerWord (s : State) (w : Nat) : Option Word :=
  match w with
  | 0 => some 0x1640#16
  | 1 => some s.port.run.code
  | 2 => some s.header.setupError.code
  | 3 => some s.header.setupDetail
  | 5 => some s.sweeper.taken
  | 6 => some s.header.rejected
  | 7 => some s.header.streamOverruns
  | 8 => some (lowWord s.time)
  | 9 => some (highWord s.time)
  | 10 => some s.header.lastPass
  | 11 => some s.header.refreshOverruns
  | 12 => some s.header.discarded
  | _ => none

/-- The page shows what the part holds for the header word `w`. -/
def State.showsHeader (s : State) (w : Nat) : Prop := ∀ x, s.headerWord w = some x → Page.readWord s.page w = x

/-! ### Requests that end (R105, R136 to R139, R142) -/

/-- `s` after the completions `l`, one after another. -/
def State.afterCompletions (s : State) (l : List (Inflight × Completion)) : State :=
  l.foldl (fun t x => complete x.1 x.2 t) s

/-- What a RECALL completes with at the end of its last context (R139). -/
def RecallReq.outcome (r : RecallReq) : Completion :=
  if r.partsLost = 0 then ⟨resOk, 0#16, wordOf r.lanesCancelled⟩
  else ⟨resSuperseded, wordOf r.partsLost, wordOf r.lanesCancelled⟩

/-- The RECALLs that complete when the contexts of the parts `gone` end, in ascending order of the parts, and
`count` has brought their counts up to date: each with the last of its contexts (R139). Requests and router writes
treat parts in that order (R120, R132, R169); that a morph-step expiry does is the model's: DESIGN CHOICE (log
entry 23). -/
def State.recallEnds (s : State) (gone : PartIx → Bool) (count : RecallReq → RecallReq) :
    List (Inflight × Completion) :=
  (List.finRange 4).filterMap fun p =>
    (s.context p).bind fun c =>
      if gone p && (List.finRange 4).all fun q =>
          (s.context q).all fun d => d.owner != c.owner || (gone q && decide (q ≤ p)) then
        (s.patch.recalls.find? fun r => r.req.id == c.owner).map fun r => (r.req, (count r).outcome)
      else none

/-- The RECALLs that still own a context when those of the parts `gone` have ended (R131). -/
def State.recallsLeft (s : State) (gone : PartIx → Bool) (count : RecallReq → RecallReq) : List RecallReq :=
  (s.patch.recalls.map count).filter fun r =>
    (List.finRange 4).any fun p => (s.context p).any fun c => c.owner == r.req.id && !gone p

/-- The lanes of part `p`'s context. -/
def State.lanesOf (s : State) (p : PartIx) : List Lane := ((s.context p).map (·.lanes)).getD []

/-- Writes cancel the lanes of part `p` that `hit p` picks out (R137): how many of them belong to the RECALL. -/
def State.cancelled (s : State) (hit : PartIx → ParamIx → Bool) (r : RecallReq) : Nat :=
  ((List.finRange 4).map fun p =>
    if (s.context p).any fun c => c.owner == r.req.id then
      ((s.lanesOf p).filter fun l => hit p l.param).length
    else 0).sum

/-- The writes that `hit` names end the context of part `p`, all of whose lanes they cancel (R137). -/
def State.emptied (s : State) (hit : PartIx → ParamIx → Bool) (p : PartIx) : Bool :=
  (s.lanesOf p).all fun l => hit p l.param

/-- What the TUNE completes with when its last target has ended (R105). -/
def TuneReq.outcome (r : TuneReq) : Completion :=
  let n := popCount (r.named &&& ~~~r.committed)
  if n = 0 then ⟨resOk, 0#16, 0#16⟩ else ⟨resPartial, wordOf n, wordOf (popCount r.fatal)⟩

/-- What the TUNE completes with at an abort or a STOP (R106). -/
def TuneReq.aborted (r : TuneReq) : Completion :=
  ⟨resAborted, wordOf (popCount (r.named &&& ~~~r.committed)), wordOf (popCount r.fatal)⟩

/-- The requests that a STOP ends, in the order of their completions: the TUNE, then the RECALLs, each with the
number of its contexts (R106, R142, R190). That the TUNE comes first, and the order of the RECALLs among themselves,
that of their acceptance, are the model's: DESIGN CHOICE (log entry 23). -/
def State.stopEnds (s : State) : List (Inflight × Completion) :=
  (s.tune.req.map fun r => (r.req, r.aborted)).toList ++
    s.patch.recalls.map fun r =>
      (r.req,
        ⟨resAborted,
          wordOf ((List.finRange 4).filter fun p => (s.context p).any fun c => c.owner == r.req.id).length,
          wordOf r.lanesCancelled⟩)

/-- The pickup state of the pot `k` in `u` when it is judged there against its reference (R174, R175). -/
def State.judgedPickup (u : State) (k : PotIx) : Pickup :=
  let d := u.potDesc k
  if 256 * (d.window.toNat + 1) < distance (u.pot k).v16 (reference u d) then .detached else .attached

/-! ### The work of the tune engine -/

/-- The entry's voice may be borrowed now (R85). -/
def State.mayBorrow (s : State) (r : TuneReq) (e : QueueEntry) : Prop :=
  let x := s.voice (voiceOf e.target)
  x.state = .out ∨
    (x.state = .free ∧ (r.idleSched = true → s.tune.idleThreshold.toNat ≤ (s.time - x.freeSince).toNat))

/-- `x` brought within the bounds of the slot. -/
def CvSlot.within (c : CvSlot) (x : Int) : Word := BitVec.ofInt 16 (max c.low.toNat (min c.high.toNat x))

/-- The code from which an attempt at the point `k` of target `t` starts, in the slot `c`, when the points
`found` have been found (R89), or from which a QUICK check does (R98). -/
def State.startCode (s : State) (t : TargetIx) (point : TunePoint) (found : List Word) (c : CvSlot) : Word :=
  let table := (s.target t).table
  match point with
  | .quick => c.within (lookup table (15360 + (s.target t).drift.toInt).toNat)
  | .full k =>
    if h : k.val = 0 then c.within (table[0]).toNat
    else c.within ((found.getLastD 0#16).toNat + ((table[k]).toNat - (table[k.val - 1]'(by omega)).toNat : Int))

/-- From `s` to `u` the tune engine has made a new offer for the work `j`, whose code is the offer's, and
waits for it; nothing else has changed (R71, R84, R109). -/
def State.offersTo (s : State) (j : TuneJob) (u : State) : Prop :=
  u = { s with
        page := u.page
        tune :=
          { s.tune with
            engine := .wait
            offers := s.tune.offers + 1
            job := some { j with offer := s.tune.offers + 1, firstError := none, windowOpen := false, timer := 0 } } } ∧
  Page.readWords u.page statusBase 32 = statusWords u.tune ∧ sameOutside inStatus s.page u.page

/-- From `s` to `u` the attempt of the work `j` has been given up for the next one, from the initial code of
its point in the slot `c` (R89, R95). -/
def State.retriesTo (s : State) (j : TuneJob) (c : CvSlot) (u : State) : Prop :=
  s.offersTo
    { j with
      attempt := j.attempt + 1, trials := 1, lastCount := 0#32
      code := s.startCode j.target j.point j.newTable c } u

/-- The record of a TUNING voice that is returned to the state `st`, FREE or OUT (R88). -/
def State.returned (s : State) (st : VoiceState) (x : Voice) : Voice :=
  (({ x.into st with
      returnState := none
      freeSince := if st = .free then s.time else x.freeSince } : Voice).regate s.running).counted

/-- A TUNING voice goes FREE when it is returned: its return state is FREE, or every target of it that the
request names has committed in it and none of its targets is FAILED (R88). -/
def State.goesFree (s : State) (r : TuneReq) (v : VoiceIx) : Prop :=
  (s.voice v).returnState = some .free ∨
    ((∀ i, r.named.getLsbD (targetOf v i).val = true → r.committed.getLsbD (targetOf v i).val = true) ∧
      ∀ i, (s.target (targetOf v i)).health ≠ .failed)

/-- From `s` to `u` the current target has ended (R88, R105): `r` is the TUNE request, `ret` the return state of
the voice and `port` the page port as its end has left them, and `u.tune.recs` the records. The engine takes the
first queued target of the voice, or the voice is returned and the engine is IDLE. With no target left the
request has completed, in the state `w` in which the end has left the rest. -/
def State.endsTo (s : State) (j : TuneJob) (r : TuneReq) (ret : Option ReturnState) (port : Port) (u : State) :
    Prop :=
  let v := voiceOf j.target
  let next := s.tune.queue.find? fun e => voiceOf e.target == v
  let free := ret = some .free ∨
    ((∀ i, r.named.getLsbD (targetOf v i).val = true → r.committed.getLsbD (targetOf v i).val = true) ∧
      ∀ i, (u.target (targetOf v i)).health ≠ .failed)
  ∃ w, u = (if s.tune.queue = [] then complete r.req r.outcome w else w) ∧
    (∀ x, x ≠ v → w.voice x = s.voice x) ∧
    (∀ e, next = some e →
      w.tune.engine = .wait ∧ w.tune.queue = s.tune.queue.erase e ∧ w.tune.req = some r ∧ w.tune.select = e.target ∧
      w.tune.offers = s.tune.offers + 1 ∧
      (∃ k, w.tune.job = some k ∧ k.target = e.target ∧ k.yields = e.yields ∧ k.attempt = 1 ∧ k.trials = 1 ∧
        k.point = (if r.quick then .quick else .full 0) ∧ k.newTable = [] ∧ k.firstError = none ∧
        k.offer = w.tune.offers ∧ ∀ c, s.pitchSlot e.target c → k.code = w.startCode e.target k.point [] c) ∧
      w.voice v = { s.voice v with returnState := ret, changeCount := (w.voice v).changeCount }) ∧
    (next = none →
      w.tune.engine = .idle ∧ w.tune.job = none ∧ w.tune.queue = s.tune.queue ∧ w.tune.select = s.tune.select ∧
      w.tune.offers = s.tune.offers ∧ w.tune.req = (if s.tune.queue = [] then none else some r) ∧
      (free → w.voice v =
        { (s.voice v).into .free with
          returnState := none, freeSince := s.time, changeCount := (w.voice v).changeCount }) ∧
      (¬ free → w.voice v =
        { (s.voice v).into .out with returnState := none, changeCount := (w.voice v).changeCount })) ∧
    Page.readWords w.page statusBase 32 = statusWords w.tune ∧ w.tune.idleThreshold = s.tune.idleThreshold ∧
    w = { s with voices := w.voices, tune := w.tune, page := w.page, port := port } ∧
    sameOutside (fun k => inStatus k ∨ inVoice v k ∨ inWords (tuneBase j.target) 12 k ∨ inWords (faultBase 0) 128 k)
      s.page w.page

/-- Where a failure is logged: at the next index, or the one after it where that holds the first fault (R101). -/
def State.faultIndex (s : State) : Fin 16 :=
  if some s.tune.nextIndex = s.tune.firstFault then s.tune.nextIndex + 1 else s.tune.nextIndex

/-- From `s` to `u` the failure of the work `j` with kind `x` and the measured count `n` has been logged, unless
the kind is masked in `r` (R101): the log header, the entry and nothing else of the log. -/
def State.logsTo (s : State) (x : FaultKind) (n : BitVec 32) (j : TuneJob) (r : TuneReq) (fatal : Bool) (u : State) :
    Prop :=
  let i := s.faultIndex
  (r.faultMask.getLsbD x.code.toNat = true →
    u.tune.nextIndex = s.tune.nextIndex ∧ u.tune.firstFault = s.tune.firstFault ∧
    u.tune.faultCount = s.tune.faultCount ∧
    ∀ k, inWords (faultBase 0) 128 k → Page.readByte u.page k = Page.readByte s.page k) ∧
  (r.faultMask.getLsbD x.code.toNat = false →
    u.tune.nextIndex = i + 1 ∧ u.tune.firstFault = some (s.tune.firstFault.getD i) ∧
    u.tune.faultCount = satInc s.tune.faultCount ∧
    Page.readWords u.page (faultBase i) 8 = faultWords x j.target j.point j.attempt j.code n fatal s.time ∧
    ∀ k, inWords (faultBase 0) 128 k → ¬ inWords (faultBase i) 8 k →
      Page.readByte u.page k = Page.readByte s.page k)

/-- The page port after a failure with kind `x` (R100): VOICE where it is fatal, TUNE where it is logged. -/
def State.failPort (s : State) (x : FaultKind) (r : TuneReq) (fatal : Bool) : Port :=
  let p := if fatal then s.port.setCause causeVoice else s.port
  if r.faultMask.getLsbD x.code.toNat then p else p.setCause causeTune

/-- From `s` to `u` the target of the work `j` has failed with kind `x` and the measured count `n`, and has ended
(R100, R101): health, the return state and VOICE of a fatal failure, and the fault log unless the kind is
masked. -/
def State.failsTo (s : State) (x : FaultKind) (n : BitVec 32) (j : TuneJob) (r : TuneReq) (u : State) : Prop :=
  let t := j.target
  let fatal := r.severityMask.getLsbD x.code.toNat
  s.endsTo j { r with fatal := if fatal then r.fatal ||| bitMask 48 t.val else r.fatal }
    (if fatal then some .out else (s.voice (voiceOf t)).returnState) (s.failPort x r fatal) u ∧
  u.target t = { s.target t with health := if fatal then .failed else .stale } ∧
  (∀ q, q ≠ t → u.target q = s.target q) ∧ Page.readWords u.page (tuneBase t) 12 = tuneWords (u.target t) ∧
  s.logsTo x n j r fatal u

/-- The tune engine measures: the window of the work `j` on the request `r` is open, with the invariants that a
search rests on. -/
def State.measures (s : State) (j : TuneJob) (r : TuneReq) : Prop :=
  s.up ∧ s.tune.engine = .measure ∧ s.tune.job = some j ∧ j.windowOpen = true ∧ s.tune.req = some r ∧
  s.VoicesFit ∧ s.TablesRise ∧ s.TablesValid

/-- The error of a count, in tenths of a cent (R92). -/
def errorOf (n : BitVec 32) : Int :=
  max (-24000) (min 24000 (Int.tdiv (((n.toNat : Int) - 978498) * 17312) 978498))

end Sys2Proof.Machine
end

