-- ==== Sys2Proof/Certificates/Slice0/Obligations.lean ====
section
/-! DEFINITION. The statements about the machine, for the provers. Each docstring names the rules that the
statement formalises. -/

section Statements

open Sys2Proof Sys2Proof.Machine

/-! ### Every command -/

/-- A step runs the command at the front of the queue with the queue's rest; with none waiting the block
idles, which is the model's choice (log entry 2). -/
def Obligations.StepRunsFrontCommand : Prop :=
  (∀ c rest s, s.pending = c :: rest → step s = exec c { s with pending := rest }) ∧
  ∀ s, s.pending = [] → step s = .next s

/-- Every command answers a next state, with the queue as it was. While RESET_N holds the part in INIT no
command but RESET_N, its release and a page write changes anything (R182, R187, R189 to R191; log entry 4). -/
def Obligations.EveryCommandAnswersNext : Prop :=
  (∀ c s, ∃ t, exec c s = .next t ∧ t.pending = s.pending) ∧
  ∀ c s, s.port.run = .init → c ≠ .resetNActive → c ≠ .powerOnInit →
    (∀ w a b v, c ≠ .hostPageWrite w a b v) → exec c s = .next s

/-! ### Invariants -/

/-- Every step keeps the page in its canonical form: addresses rising, no byte listed that reads as an
unlisted one. -/
def Obligations.PageStaysCanonical : Prop :=
  ∀ s t, Page.wf s.page = true → step s = .next t → Page.wf t.page = true

/-- Every step keeps every voice as its state requires (R2), with its gate output by the gate rule (R74), and
the voice of the current tune target TUNING, and no other (R86, R88); in SETUP every voice FREE or OUT with no
TUNE in flight (R78). And every step keeps the held-note lists without duplicates, at most 16 long (R39), and
empty in POLY (R22). -/
def Obligations.VoicesStayFit : Prop :=
  (∀ s t, s.VoicesFit → step s = .next t → t.VoicesFit) ∧
  ∀ s t, s.ListsFit → step s = .next t → t.ListsFit

/-- Every step keeps every installed tune table, and the partial table of a running search, strictly
increasing (R80, R96). -/
def Obligations.TablesStayRising : Prop :=
  ∀ s t, s.TablesRise → step s = .next t → t.TablesRise

/-- Every step keeps the part fields of the voices and the voice groups of the parts in agreement, so that
the groups stay disjoint (R10). -/
def Obligations.GroupsStayAgreed : Prop :=
  ∀ s t, s.GroupsAgree → step s = .next t → t.GroupsAgree

/-- Every step keeps the stamps at most the event sequence counter, and the nonzero ones of each kind
distinct (R4). When a stamp is due and the counter holds 0xFFFFFFFF, the nonzero age stamps become 1 to k and
the nonzero release stamps k + 1 to m in their old order, those of 0 stay 0, and the due stamp is m + 1 (R5);
so does a NOTE_ON that starts its note on one FREE voice there (R26). That each record whose stamps change is
published once, with its change count advanced, is log entry 9 (DEDUCED from R5 and R8). -/
def Obligations.StampsStayDistinct : Prop :=
  (∀ s t, s.StampsDistinct → step s = .next t → t.StampsDistinct) ∧
  (∀ s, s.StampsDistinct → s.VoicesFit → s.sequence = 0xFFFFFFFF#32 →
    let t := issueStamp s
    (∀ v, t.voice v = s.renumberedVoice v) ∧ t.sequence.toNat = s.renumberedCount + 1 ∧
    t = { s with voices := t.voices, page := t.page, sequence := t.sequence } ∧
    sameOutside (fun k => ∃ v, inVoice v k) s.page t.page) ∧
  ∀ s p e v, s.playsNote p e → s.allocates p e → s.chosen p = [v] → (s.voice v).state = .free →
    s.StampsDistinct → s.VoicesFit → s.sequence = 0xFFFFFFFF#32 →
    ∃ u, exec .noteOn s = .next (passEntry u) ∧
      u.voice v =
        (s.startedRecord .sounding p (s.played p e) v
          { s.renumberedVoice v with
            ageStamp := BitVec.ofNat 32 (s.renumberedCount + 1), unisonIndex := 0#8, unisonCount := 1#8 }).counted ∧
      (∀ w, w ≠ v → u.voice w = s.renumberedVoice w) ∧ u.sequence.toNat = s.renumberedCount + 1

/-- Every step keeps the morph contexts well formed, and the live value of each lane between the lane's start
and target (R130, R134, R135). -/
def Obligations.LanesStayBetween : Prop :=
  ∀ s t, s.LanesRun → step s = .next t → t.LanesRun

/-- Every step keeps the in-flight set equal to the requests that the blocks work on; so it never holds more
than one TUNE and four RECALLs (R131, R196). -/
def Obligations.RequestsStayHeld : Prop :=
  (∀ s t, s.RequestsHeld → step s = .next t → t.RequestsHeld) ∧
  ∀ s : State, s.RequestsHeld → s.sweeper.inflight.length ≤ 5

/-- Every step keeps the installed CV map within the constraints that SETUP_LOAD checks, and the installed
descriptors valid (R64, R168); and the current trial code within the bounds of its target's pitch slot (R71,
R80), which at an installation of other bounds is the model's choice (log entry 5). -/
def Obligations.InstalledTablesStayValid : Prop :=
  ∀ s t, s.TablesValid → step s = .next t → t.TablesValid

/-- Every step keeps the ATTN output by the level rule in level mode (R185); and the lines of the refresh engine
and of the pot scanner as their work requires: at rest while no pass runs (R65), the address and the code of the
slot in its turn (R67), the channel and the ADC input of the pot being converted (R150). -/
def Obligations.AttnAndLinesFollow : Prop :=
  (∀ s t, s.AttnLevel → step s = .next t → t.AttnLevel) ∧
  ∀ s t, s.LinesFollow → step s = .next t → t.LinesFollow

/-- Where the page shows a voice record, a part record, a tune area entry, the tune status block, a pot record, a
switch record or a header word that the part writes, it shows the one that any command leaves, unless the
command is a host write into it, or RESET_N, which writes no records (R8, R12, R76, R82, R109, R148, R155, R174,
R180, R183). -/
def Obligations.RecordsStayShown : Prop :=
  ∀ c s t, exec c s = .next t → c ≠ .resetNActive →
    let spares (w n : Nat) : Prop :=
      ∀ x a b v, c = .hostPageWrite x a b v → ¬ (w ≤ x.toNat ∧ x.toNat < w + n)
    (∀ v, spares (voiceBase v) 16 → s.VoicesFit → s.showsVoice v → t.showsVoice v) ∧
    (∀ p, spares (partBase p) 32 → s.showsPart p → t.showsPart p) ∧
    (∀ i, spares (tuneBase i) 12 → s.showsTarget i → t.showsTarget i) ∧
    (spares statusBase 32 → s.showsStatus → t.showsStatus) ∧
    (∀ i, spares (potBase i) 4 → s.showsPot i → t.showsPot i) ∧
    (∀ i, spares (switchBase i) 2 → s.showsSwitch i → t.showsSwitch i) ∧
    ∀ w, spares w 1 → s.showsHeader w → t.showsHeader w

/-! ### Resets and run states -/

/-- What a power-on reset leaves, by the rules' tables: the registers, the header, the records of every block
(R13, R14, R65, R81, R110, R115, R118, R124, R140, R154, R160, R166, R174, R187); and it meets every
invariant. That the part time, header words 8 and 9 and what is set from it, is 0 at the end of the INIT is the
model's choice (log entry 6); the rules give 0 at the release of RESET_N. -/
def Obligations.ResetIsAsStated : Prop :=
  (readPstat State.reset = 1#16 ∧ readAttn State.reset = 0x80#16 ∧ readAttnen State.reset = 0#16 ∧
    readSweep State.reset = 0#16) ∧
  (Page.readWord State.reset.page 0 = 0x1640#16 ∧ Page.readWord State.reset.page 1 = 1#16 ∧
    ∀ w, 2 ≤ w → w < 32 → Page.readWord State.reset.page w = 0#16) ∧
  (∀ i, slotState State.reset.page i = slotFree) ∧
  (State.reset.sweeper.last = 0xFFFF#16 ∧ State.reset.sweeper.interval = 0#16 ∧
    State.reset.sweeper.inflight = [] ∧ State.reset.sequence = 0#32 ∧ State.reset.refresh.map = [] ∧
    State.reset.refresh.turn = none ∧ State.reset.refresh.address = 0#8 ∧
    State.reset.refresh.lines = { dsync := true, shsN := true, dclk := false, ddata := false } ∧
    State.reset.panel.potSelect = 0#4 ∧ State.reset.tune.select = 0 ∧ State.reset.patch.captureCounter = 0#16) ∧
  (∀ v, let x := State.reset.voice v
    x.state = .free ∧ x.prev1 = .free ∧ x.prev2 = .free ∧ x.prev3 = .free ∧ x.part = none ∧ x.note = none ∧
    x.pending = none ∧ x.returnState = none ∧ x.ageStamp = 0#32 ∧ x.releaseStamp = 0#32 ∧
    x.freeSince = State.reset.time ∧ x.unisonIndex = 0#8 ∧ x.unisonCount = 1#8 ∧ x.glide.toNat = 15360 * 65536 ∧
    x.glideTarget = 15360#15 ∧ x.gateRequest = false ∧ x.gateOut = false ∧ x.gapUntil = State.reset.time ∧
    x.gap = .passed ∧ x.pitchWritten = false ∧ x.changeCount = 0#16) ∧
  (∀ p, let x := State.reset.part p
    x.group = 0#16 ∧ x.mode = .poly ∧ x.unison = 1#8 ∧ x.held = [] ∧ x.sustain = false ∧ x.bend = 0#14 ∧
    x.dropped = 0#16 ∧ x.progress = 0xFFFF#16 ∧ x.recallTicket = 0#16 ∧ x.marks = 0#128 ∧ x.changeCount = 0#16) ∧
  (∀ p i, State.reset.param p i =
    if i = pDetuneA ∨ i = pDetuneB then 32768#16
    else if i = pIntervalB ∨ i = pTranspose then 32100#16
    else if i = pBendRange then 5243#16
    else 0#16) ∧
  (∀ t, let r := State.reset.target t
    (∀ k : Fin 9, (r.table[k]).toNat = 8192 + 6144 * k.val) ∧ r.drift = 0#8 ∧ r.health = .nominal ∧ r.serial = 0#16) ∧
  (State.reset.tune.engine = .idle ∧ State.reset.tune.job = none ∧ State.reset.tune.queue = [] ∧
    State.reset.tune.req = none ∧ State.reset.tune.faultCount = 0#16 ∧ State.reset.tune.nextIndex = 0 ∧
    State.reset.tune.firstFault = none) ∧
  (∀ i, let x := State.reset.pot i
    x.history = [] ∧ x.prevV16 = 0#16 ∧ x.valid = false ∧ x.accepted = 0#12 ∧ x.v16 = 0#16 ∧ x.changeCount = 0#8 ∧
    x.pickup = .unrouted ∧ (State.reset.potDesc i).kind = .unused) ∧
  (∀ i, let x := State.reset.switch i
    x.raw = false ∧ x.stable = 0 ∧ x.debounced = false ∧ x.presses = 0#8 ∧ x.releases = 0#8 ∧
    (State.reset.router.switches[i]).kind = .unused) ∧
  (∀ i : LedIx, State.reset.router.leds[i] = .unused) ∧
  (Page.wf State.reset.page = true ∧ State.reset.VoicesFit ∧ State.reset.ListsFit ∧ State.reset.TablesRise ∧
    State.reset.GroupsAgree ∧ State.reset.StampsDistinct ∧ State.reset.LanesRun ∧ State.reset.RequestsHeld ∧
    State.reset.TablesValid ∧ State.reset.AttnLevel ∧ State.reset.LinesFollow ∧ (∀ v, State.reset.showsVoice v) ∧
    (∀ p, State.reset.showsPart p) ∧ (∀ t, State.reset.showsTarget t) ∧ State.reset.showsStatus ∧
    (∀ i, State.reset.showsPot i) ∧ (∀ i, State.reset.showsSwitch i) ∧ ∀ w, State.reset.showsHeader w)

/-- RESET_N abandons all work in flight and holds every output at rest; the hold outputs keep their voltages
(R79, R187). Its release runs the power-on INIT, which leaves the reset state. The model's choices here: the
page outside the three header words and the tune records stay until that INIT (log entry 8, DEDUCED); the INIT
acts in every state and keeps the DAC code with the hold outputs (log entry 7), its part time is 0 (log entry
6), what no rule gives a reset value stands as in the reset state (log entries 14 and 15), and the model's own count
of takes and soft resets goes on (log entry 24). -/
def Obligations.ResetNHoldsThenInits : Prop :=
  (∀ s, ∃ t, exec .resetNActive s = .next t ∧
    t.port.run = .init ∧ t.port.attnLine = false ∧ (∀ v, (t.voice v).gateOut = false) ∧
    t.refresh.address = 0#8 ∧ t.refresh.lines = { dsync := true, shsN := true, dclk := false, ddata := false } ∧
    t.refresh.turn = none ∧ t.refresh.map = [] ∧ t.refresh.holds = s.refresh.holds ∧
    t.tune.select = 0 ∧ t.tune.engine = .idle ∧ t.tune.job = none ∧ t.tune.queue = [] ∧ t.tune.req = none ∧
    t.tune.recs = s.tune.recs ∧
    t.panel.potSelect = 0#4 ∧ t.panel.conversion = none ∧ t.panel.scanning = false ∧ t.panel.ledRow = none ∧
    t.panel.ledColumns = 0#8 ∧ (∀ p, t.context p = none) ∧ t.sweeper.run = .idle ∧ t.sweeper.inflight = [] ∧
    (∀ v, (t.voice v).damp = none ∧ (t.voice v).window = none) ∧
    Page.readWord t.page 1 = 0#16 ∧
    sameOutside (fun k => inWords 1 1 k ∨ inWords 10 2 k) s.page t.page) ∧
  ∀ s, exec .powerOnInit s = .next
    { State.reset with
      pending := s.pending
      sweeper := { State.reset.sweeper with nextId := s.sweeper.nextId }
      refresh := { State.reset.refresh with dac := s.refresh.dac, holds := s.refresh.holds } }

/-- SOFT_RESET (R13, R14, R79, R110, R115, R127, R154, R160, R183, R188): every block takes its soft-reset values,
TAKEN slots are FAILED with RESET, the tune records and the counts are kept, the taken count is the posted
count, and the fault log, the stream, the frames, the setup areas and the user area stay. The model's choices
here: a turn always completes its strobe, since its code has been sent (log entry 4, DEDUCED); the DAC code is
kept (log entry 7); the ADC input, the idle threshold and the debounce count are 0 (log entries 14 and 15);
slots that do not show TAKEN stay as they are (log entry 19, DEDUCED). Where the sweep stands before a CAPTURE,
the reset may cut it (R127): its slot is TAKEN, and so FAILED with RESET, and the frame holds the first n of the
writes of R126 and keeps its old words elsewhere, the tag among them unless all are made; whether the request has
been taken, and n, are a free value (log entry 24). -/
def Obligations.SoftResetReinstalls : Prop :=
  (∀ s, (∀ i p f, ¬ s.captures i p f) → cutCapture s = s) ∧
  (∀ s i p f, s.captures i p f →
    match Config.captureCut s.sweeper.nextId with
    | none => cutCapture s = s
    | some n =>
      let c := (cutCapture s).page
      slotState c i = slotTaken ∧
      (∀ k, k < 132 → Page.readWord c (captureWord f k) =
        if k < n.val then s.captureValue p k else Page.readWord s.page (captureWord f k)) ∧
      sameOutside (fun k => inWords (slotBase i) 1 k ∨ inWords (frameBase f) 132 k) s.page c) ∧
  ∀ s, s.up → let c := (cutCapture s).page
    ∃ t, exec .softReset s = .next t ∧ t.time = s.time ∧ t.sequence = 0#32 ∧
    t.port =
      { run := .setup, loaded := false
        attn := causeState ||| (if ∃ i, slotState c i = slotTaken then causeSlot else 0#8)
        attnEnable := 0#8, attnPulse := false, attnLine := false } ∧
    t.header = ⟨.none, 0#16, 0#16, 0#16, 0#16, 0#16, 0#16⟩ ∧
    t.sweeper =
      { last := 0xFFFF#16, taken := Page.readWord c 4, interval := 0#16, nextInterval := none, pending := false
        count := 0#16, run := .idle, inflight := [], nextId := s.sweeper.nextId + 1 } ∧
    (∀ v, t.voice v =
      { State.reset.voice v with
        state := if ∃ j, (s.target (targetOf v j)).health = .failed then .out else .free
        freeSince := s.time
        gapUntil := s.time
        changeCount := (s.voice v).changeCount + 1#16 }) ∧
    (∀ p, t.part p = { State.reset.part p with changeCount := (s.part p).changeCount + 1#16 }) ∧
    t.tune = { State.reset.tune with recs := s.tune.recs, offers := s.tune.offers } ∧
    t.patch = State.reset.patch ∧ t.router = State.reset.router ∧
    (∀ i, t.pot i = { State.reset.pot i with changeCount := (s.pot i).changeCount }) ∧
    (∀ i, t.switch i =
      { State.reset.switch i with presses := (s.switch i).presses, releases := (s.switch i).releases }) ∧
    t.panel = { State.reset.panel with pots := t.panel.pots, switches := t.panel.switches } ∧
    t.refresh = { State.reset.refresh with dac := s.refresh.dac, holds := t.refresh.holds } ∧
    (s.refresh.turn = none → t.refresh.holds = s.refresh.holds) ∧
    (∀ tr, s.refresh.turn = some tr → t.refresh.holds = s.refresh.holds.set tr.slot.address.toNat (some tr.code)) ∧
    (∀ i, slotState c i = slotTaken →
      slotState t.page i = slotFailed ∧ Page.readWords t.page (slotBase i + 13) 3 = [resReset, 0#16, 0#16] ∧
      Page.readWords t.page (slotBase i + 1) 12 = Page.readWords c (slotBase i + 1) 12) ∧
    (∀ i, slotState c i ≠ slotTaken →
      Page.readWords t.page (slotBase i) 16 = Page.readWords c (slotBase i) 16) ∧
    Page.readWords t.page 0 4 = [0x1640#16, 1#16, 0#16, 0#16] ∧
    Page.readWord t.page 4 = Page.readWord c 4 ∧
    Page.readWords t.page 5 8 =
      [Page.readWord c 4, 0#16, 0#16, lowWord s.time, highWord s.time, 0#16, 0#16, 0#16] ∧
    Page.readWords t.page 14 4 = Page.readWords c 14 4 ∧
    sameOutside (fun k => inWords 0 0x340 k ∨ inWords 0x5C0 0x440 k) c t.page

/-- GO (R189): in SETUP with LOADED it enters RUN, sets STATE and re-evaluates the gates; without LOADED it
reports NOT_LOADED and sets no cause; in RUN it is ignored. -/
def Obligations.GoEntersRun : Prop :=
  (∀ s, s.port.run = .setup → s.port.loaded = true → ∃ t, exec .go s = .next t ∧
    t = { s with
          port := ({ s.port with run := .run } : Port).setCause causeState, voices := t.voices, page := t.page } ∧
    Page.readWord t.page 1 = 2#16 ∧
    (∀ v, t.voice v =
      { s.voice v with
        gateOut := (s.voice v).gateRule true
        changeCount :=
          if (s.voice v).gateRule true = (s.voice v).gateOut then (s.voice v).changeCount
          else (s.voice v).changeCount + 1#16 }) ∧
    sameOutside (fun k => inWords 1 1 k ∨ ∃ v, inVoice v k) s.page t.page) ∧
  (∀ s, s.port.run = .setup → s.port.loaded = false → ∃ t, exec .go s = .next t ∧
    t = { s with header := { s.header with setupError := .notLoaded, setupDetail := 0#16 }, page := t.page } ∧
    Page.readWords t.page 2 2 = [1#16, 0#16] ∧ sameOutside (inWords 2 2) s.page t.page) ∧
  ∀ s, s.port.run = .run → exec .go s = .next s

/-- STOP in RUN (R43, R78, R106, R142, R190): SETUP with STATE set. The TUNE and then the RECALLs complete
ABORTED (R106, R142); the TUNING voice is returned, FREE or OUT by R88; every active voice is cut to FREE (R7),
taking its release stamp in ascending voice number (R4), with every gate low; held lists and sustain flags are
cleared; every morph freezes where it stands. What the rules keep is kept: the other fields of the voice and part
records, the live sets, the tables, LOADED, the panel and the refresh. Where the release stamps leave the counter
room (R5); how often a part record is published is left open. The model's choices: the TUNE completes before the
RECALLs, and these in the order of their acceptance (log entry 23); a gap that runs on a voice that is not cut stays
(log entry 25, DEDUCED). In SETUP it is ignored. -/
def Obligations.StopLeavesRun : Prop :=
  (∀ s, s.port.run = .run → s.VoicesFit →
    let vs := (List.finRange 16).filter fun v => (s.voice v).state.active
    s.roomFor vs.length →
    ∃ t, exec .stop s = .next t ∧
      (let u := { s with port := ({ s.port with run := .setup } : Port).setCause causeState }.afterCompletions s.stopEnds
       t = { u with
             voices := t.voices, parts := t.parts, page := t.page, sequence := t.sequence
             patch := { s.patch with contexts := t.patch.contexts, recalls := [] }
             tune := { s.tune with engine := .idle, job := none, queue := [], req := none } } ∧
       sameOutside (fun k => inWords 1 1 k ∨ inStatus k ∨ (∃ v, inVoice v k) ∨ ∃ p, inPart p k) u.page t.page) ∧
      Page.readWord t.page 1 = 1#16 ∧
      (∀ v ∈ vs, t.voice v = (s.cutRecord .free (s.releaseStampOf vs v) (s.voice v)).counted) ∧
      (∀ v, (s.voice v).state = .free ∨ (s.voice v).state = .out → t.voice v = s.voice v) ∧
      (∀ v r, (s.voice v).state = .tuning → s.tune.req = some r →
        (s.goesFree r v → t.voice v = s.returned .free (s.voice v)) ∧
        (¬ s.goesFree r v → t.voice v = s.returned .out (s.voice v))) ∧
      t.sequence = s.sequence + BitVec.ofNat 32 (vs.filter fun v => (s.voice v).gateRequest).length ∧
      (∀ v, (t.voice v).gateRequest = false ∧ (t.voice v).gateOut = false) ∧
      (∀ p, t.part p =
        { s.part p with held := [], sustain := false, progress := 0xFFFF#16, changeCount := (t.part p).changeCount }) ∧
      ∀ p, t.context p = none) ∧
  ∀ s, s.port.run = .setup → exec .stop s = .next s

/-! ### The host's bus cycles -/

/-- ATTN, ATTNEN and the pulse (R102, R184, R185): a 1 written to ATTN clears its cause, and in the TUNE bit
releases the first fault; ATTNEN is written whole and reads back with bits 8 to 14 zero; the line follows
the level rule in level mode, and in pulse mode runs from an enabled cause's setting to the pulse's end. -/
def Obligations.AttnFollowsCauses : Prop :=
  (∀ v s, s.up → ∃ t, exec (.attnWrite v) s = .next t ∧
    t.port = { s.port with attn := s.port.attn &&& ~~~(lowByte v), attnLine := t.port.attnLine } ∧
    (s.port.attnPulse = false → (t.port.attnLine = true ↔ t.port.attn &&& s.port.attnEnable ≠ 0#8)) ∧
    (s.port.attnPulse = true → t.port.attnLine = s.port.attnLine) ∧
    t = { s with port := t.port, tune := t.tune, page := t.page } ∧
    t.tune = { s.tune with firstFault := if v.getLsbD 5 then none else s.tune.firstFault } ∧
    (v.getLsbD 5 = true → Page.readWord t.page (statusBase + 7) = 0xFFFF#16) ∧
    (v.getLsbD 5 = false → t.page = s.page) ∧ sameOutside inStatus s.page t.page) ∧
  (∀ v s, s.up → ∃ t, exec (.attnenWrite v) s = .next t ∧ t = { s with port := t.port } ∧
    t.port = { s.port with attnEnable := lowByte v, attnPulse := v.getLsbD 15, attnLine := t.port.attnLine } ∧
    readAttnen t = v &&& 0x80FF#16 ∧
    (v.getLsbD 15 = false → (t.port.attnLine = true ↔ s.port.attn &&& lowByte v ≠ 0#8)) ∧
    (v.getLsbD 15 = true → (t.port.attnLine = true ↔ s.port.attnPulse = true ∧ s.port.attnLine = true))) ∧
  (∀ s, s.up → exec .attnPulseEnd s = .next
    { s with port := { s.port with attnLine := !s.port.attnPulse && s.port.attnLine } }) ∧
  ∀ (p : Port) (i : Fin 8),
    let q := p.setCause (bitMask 8 i.val)
    q = { p with attn := p.attn ||| bitMask 8 i.val, attnLine := q.attnLine } ∧
    (p.attnPulse = false → (q.attnLine = true ↔ q.attn &&& p.attnEnable ≠ 0#8)) ∧
    (p.attnPulse = true → (q.attnLine = true ↔
      p.attnLine = true ∨ (p.attn.getLsbD i.val = false ∧ p.attnEnable.getLsbD i.val = true)))

/-- The cycles of the host bus (R180 to R182, R186, R191). A page write puts the bytes of the enabled lanes into
the word, in every run state, and changes nothing else. A register write is selected by A2 and A1 alone and uses
the full word: of the words written to PSTAT, 0x0001 is GO, 0x0002 is STOP, 0x00C3 is SOFT_RESET and every other is
ignored. A cycle with both selects active reaches neither the page nor a register: a write changes nothing and a
read drives nothing. A read of the page gives both bytes, one of PSTAT the five indications. A command that a
write brings waits behind the others, which is the model's queue (log entry 1), and is the next step where none
waits. -/
def Obligations.HostCyclesReachPageAndRegisters : Prop :=
  (∀ w a b v s, ∃ t, exec (.hostPageWrite w a b v) s = .next t ∧ t = { s with page := t.page } ∧
    ∀ k, Page.readByte t.page k =
      if a = true ∧ k = 2 * w.toNat then lowByte v
      else if b = true ∧ k = 2 * w.toNat + 1 then highByte v
      else Page.readByte s.page k) ∧
  (∀ b : BusCycle, b.pageSelect = true → b.registerSelect = false →
    b.write = some (.hostPageWrite b.address b.lane0 b.lane1 b.data) ∧
    ∀ s, b.read s = some (Page.readWord s.page b.address.toNat)) ∧
  (∀ b : BusCycle, b.pageSelect = false → b.registerSelect = true →
    let a1 := b.address.getLsbD 0
    let a2 := b.address.getLsbD 1
    (a2 = false → a1 = false →
      (b.data = 0x0001#16 → b.write = some .go) ∧ (b.data = 0x0002#16 → b.write = some .stop) ∧
      (b.data = 0x00C3#16 → b.write = some .softReset) ∧
      (b.data ≠ 0x0001#16 → b.data ≠ 0x0002#16 → b.data ≠ 0x00C3#16 → b.write = none) ∧
      ∀ s, ∃ x, b.read s = some x ∧
        (∀ k : Fin 16, x.getLsbD k.val = true ↔
          (k = 0 ∧ s.port.run = .setup) ∨ (k = 1 ∧ s.port.run = .run) ∨ (k = 2 ∧ s.port.loaded = true) ∨
          (k = 3 ∧ s.tune.req ≠ none) ∨ (k = 4 ∧ s.refresh.overrun = true) ∨ (k = 5 ∧ s.sweeper.pending = true))) ∧
    (a2 = false → a1 = true →
      b.write = some (.attnWrite b.data) ∧ ∀ s, b.read s = some (joinBytes 0#8 s.port.attn)) ∧
    (a2 = true → a1 = false →
      b.write = some (.attnenWrite b.data) ∧
      ∀ s, b.read s = some (joinBytes (if s.port.attnPulse then 0x80#8 else 0#8) s.port.attnEnable)) ∧
    (a2 = true → a1 = true → b.write = some (.sweepWrite b.data) ∧ ∀ s, b.read s = some s.sweeper.count)) ∧
  (∀ b : BusCycle, b.pageSelect = b.registerSelect → b.write = none ∧ ∀ s, b.read s = none) ∧
  (∀ (b : BusCycle) (s : State), s.busWrite b = { s with pending := s.pending ++ b.write.toList }) ∧
  ∀ (b : BusCycle) s, s.pending = [] →
    (∀ c, b.write = some c → step (s.busWrite b) = exec c s) ∧ (b.write = none → s.busWrite b = s)

/-! ### The sweeper -/

/-- A sweep request starts a sweep at once, or sets the pending indication while one runs (R191); at its start
the sweep reads the posted count, and goes on to the stream, to the slots, or through an overrun (R193). A
command that cannot arrive in the state changes nothing, which is the model's choice (log entry 2). -/
def Obligations.SweepRequestsStartOrWait : Prop :=
  (∀ c s, s.up →
    (∃ v, c = .sweepWrite v) ∨ (c = .sweepTimerExpiry ∧ s.sweeper.interval ≠ 0#16) ∨
      (c = .sweepStart ∧ s.sweeper.run = .idle ∧ s.sweeper.pending = true) →
    (s.sweeper.run ≠ .idle → exec c s = .next { s with sweeper := { s.sweeper with pending := true } }) ∧
    (s.sweeper.run = .idle →
      let posted := Page.readWord s.page 4
      let n := (posted - s.sweeper.taken).toNat
      (n = 0 → exec c s = .next
        (goOnWithSlots (takingOrder s) { s with sweeper := { s.sweeper with pending := false } })) ∧
      (1 ≤ n → n ≤ 128 → exec c s = .next
        { s with sweeper := { s.sweeper with pending := false, run := .stream 0 n } }) ∧
      (128 < n → ∃ t, exec c s = .next (goOnWithSlots (takingOrder s) t) ∧
        t = { s with
              sweeper := { s.sweeper with pending := false, taken := posted }
              header := { s.header with streamOverruns := satInc s.header.streamOverruns }
              port := s.port.setCause causeStream
              page := t.page } ∧
        Page.readWord t.page 5 = posted ∧ Page.readWord t.page 7 = satInc s.header.streamOverruns ∧
        sameOutside (fun k => inWords 5 1 k ∨ inWords 7 1 k) s.page t.page))) ∧
  (∀ s, s.up → s.sweeper.interval = 0#16 → exec .sweepTimerExpiry s = .next s) ∧
  (∀ s, s.up → s.sweeper.run = .idle → s.sweeper.pending = false → exec .sweepStart s = .next s) ∧
  ∀ s done left, s.up → s.sweeper.run = .stream done left → exec .sweepStart s = .next s

/-- The posted slots are taken in the order of their keys (ticket − L − 1) mod 65536, equal keys in ascending
slot index (R194). -/
def Obligations.SlotsGoInKeyOrder : Prop :=
  ∀ s, (∀ i, slotKey s i = slotTicket s.page i - s.sweeper.last - 1#16) ∧
    (∀ i, i ∈ takingOrder s ↔ slotState s.page i = slotPosted) ∧
    (takingOrder s).Pairwise fun i j => slotKey s i < slotKey s j ∨ (slotKey s i = slotKey s j ∧ i < j)

/-- How a sweep moves on (R19, R191 to R194, R201): through the entries of the stream, the one read next being at
index (taken count + entries treated) mod 128, which in SETUP are discarded and of which a NOP is skipped; from
the last entry, with the taken count advanced over them all, to the slots; over slots that no longer show POSTED;
and from the last slot to the end of the sweep. An entry of an unknown kind or with a part byte outside the allowed
set is rejected: the count advances, STREAM is set and nothing else changes (R19). The model's choices: the order
of the slots is fixed in the step of the last entry (log entry 4, DEDUCED), and any request command passes over
slots that no longer show POSTED and ends a sweep with none left (log entries 2 and 4). -/
def Obligations.SweepMovesOn : Prop :=
  (∀ s done left, s.sweeper.run = .stream done left →
    let w (k : Nat) : Word := Page.readWord s.page (0x3C0 + 4 * ((s.sweeper.taken.toNat + done) % 128) + k)
    nextEntry s = some
      { kind := lowByte (w 0), part := highByte (w 0), note := lowByte (w 1), velocity := highByte (w 1)
        bend := w 2, tag := w 3 }) ∧
  (∀ s e, s.port.run = .setup → nextEntry s = some e → exec (entryCommand e.kind) s = .next (passEntry s)) ∧
  (∀ s e, s.reads e → e.kind = 0#8 → exec .nop s = .next (passEntry s)) ∧
  (∀ s done left, s.sweeper.run = .stream done left → 2 ≤ left →
    passEntry s = { s with sweeper := { s.sweeper with run := .stream (done + 1) (left - 1) } }) ∧
  (∀ s done, s.sweeper.run = .stream done 1 →
    let n := s.sweeper.taken + BitVec.ofNat 16 (done + 1)
    let t := { s with sweeper := { s.sweeper with taken := n }, page := Page.writeWord s.page 5 n }
    passEntry s = goOnWithSlots (takingOrder t) t) ∧
  (∀ s i rest, goOnWithSlots (i :: rest) s = { s with sweeper := { s.sweeper with run := .slots (i :: rest) } }) ∧
  (∀ s, goOnWithSlots [] s =
    { s with
      sweeper :=
        { s.sweeper with
          count := s.sweeper.count + 1#16
          run := .idle
          interval := s.sweeper.nextInterval.getD s.sweeper.interval
          nextInterval := none } }) ∧
  (∀ c s order, c ∈ requestCommands → s.up → s.sweeper.run = .slots order →
    exec c s = exec c (goOnWithSlots (order.dropWhile fun i => slotState s.page i != slotPosted) s)) ∧
  ∀ s e, s.reads e → e.parts = none → ∃ t, exec (entryCommand e.kind) s = .next (passEntry t) ∧
    t = { s with
          header := { s.header with rejected := satInc s.header.rejected }
          port := s.port.setCause causeStream
          page := t.page } ∧
    Page.readWord t.page 6 = satInc s.header.rejected ∧ sameOutside (inWords 6 1) s.page t.page

/-! ### NOTE_ON -/

/-- A NOTE_ON of nonzero velocity latches the mode and unison count of an idle part, empties the list of a part
latched POLY, enters the note in the list of a mono part, and leaves the rest of the part records (R21, R38). -/
def Obligations.NoteOnLatchesIdlePart : Prop :=
  ∀ s p e, s.playsNote p e → ∃ u, exec .noteOn s = .next (passEntry u) ∧
    (u.part p).mode = (s.latched p).mode ∧ (u.part p).unison = (s.latched p).unison ∧
    (u.part p).held = (s.entered p e).held ∧
    u.part p =
      { s.part p with
        mode := (u.part p).mode, unison := (u.part p).unison, held := (u.part p).held
        dropped := (u.part p).dropped, changeCount := (u.part p).changeCount } ∧
    (∀ q, q ≠ p → u.part q = s.part q) ∧
    u.time = s.time ∧ u.router = s.router ∧ u.panel = s.panel ∧ u.patch = s.patch

/-- One run of the tier search chooses, of the candidates in ascending voice number, the first of the first
tier that holds one, and none only where there is no candidate (R24, R25). -/
def Obligations.TierSearchTakesTheFirstTier : Prop :=
  ∀ s vs, vs.Pairwise (· < ·) →
    (tierSearch s vs = none ↔ ∀ v ∈ vs, s.tier v = none) ∧
    ∀ v, tierSearch s vs = some v → v ∈ vs ∧ ∃ x, s.tier v = some x ∧
      ∀ w ∈ vs, ∀ y, s.tier w = some y → tierLe x v y w

/-- A NOTE_ON that finds FREE voices starts its note on each chosen voice, with age stamps and unison indexes in
the order chosen and the number chosen as unison count (R22, R24 to R26, R38, R49, R50); one that finds no
voice is dropped, with VOICE set and no voice changed (R28). Choices that are not all FREE are the next statement,
and a counter without room is StampsStayDistinct. That a start whose gate rises at once is one change of the
record is log entry 9 (DEDUCED). -/
def Obligations.NoteOnStartsOrDrops : Prop :=
  (∀ s p e, s.playsNote p e → s.allocates p e → s.chosen p ≠ [] →
    (∀ v ∈ s.chosen p, (s.voice v).state = .free) → s.roomFor (s.chosen p).length →
    ∃ u, exec .noteOn s = .next (passEntry u) ∧
      (∀ (i : Nat) (h : i < (s.chosen p).length),
        u.voice (s.chosen p)[i] =
          (s.startedRecord .sounding p (s.played p e) (s.chosen p)[i]
            { s.voice (s.chosen p)[i] with
              ageStamp := s.sequence + 1#32 + BitVec.ofNat 32 i
              unisonIndex := BitVec.ofNat 8 i
              unisonCount := BitVec.ofNat 8 (s.chosen p).length }).counted) ∧
      (∀ v, v ∉ s.chosen p → u.voice v = s.voice v) ∧
      u.sequence = s.sequence + BitVec.ofNat 32 (s.chosen p).length ∧
      u.part p = { s.entered p e with changeCount := (u.part p).changeCount } ∧
      (∀ q, q ≠ p → u.part q = s.part q) ∧
      u = { s with
            voices := u.voices, parts := u.parts, page := u.page, sequence := u.sequence
            refresh := { s.refresh with turn := u.refresh.turn } } ∧
      sameOutside (fun k => inPart p k ∨ ∃ v ∈ s.chosen p, inVoice v k) s.page u.page) ∧
  ∀ s p e, s.playsNote p e → s.allocates p e → s.chosen p = [] →
    ∃ u, exec .noteOn s = .next (passEntry u) ∧
      u.part p =
        { s.entered p e with
          dropped := satInc (s.part p).dropped, changeCount := (u.part p).changeCount } ∧
      (∀ q, q ≠ p → u.part q = s.part q) ∧
      u = { s with parts := u.parts, page := u.page, port := s.port.setCause causeVoice } ∧
      sameOutside (inPart p) s.page u.page

/-- A NOTE_ON takes every voice it chooses, one or several, by the state each stands in, in the order chosen: a
FREE voice starts the note, a TUNING one is preempted and starts it (R27), and a RELEASING, HELD or SOUNDING one
is stolen (R28): its gate request falls with a release stamp, then it takes its age stamp, and it holds the new
note pending for the damp time read at the choice (R4, R24, R25, R28); a damp of 0 ms ends at once in the start of
the note (R30). Unison indexes go in that order, and the number chosen is the unison count. The change counts (two
after a damp of 0 ms) are log entry 9, and the order of a stolen voice's two stamps is log entry 16 (both
DEDUCED); a counter without room is StampsStayDistinct. -/
def Obligations.NoteOnTakesChosenVoices : Prop :=
  ∀ s p e, s.playsNote p e → s.allocates p e → s.chosen p ≠ [] →
    let vs := s.chosen p
    let stamps := (vs.map s.stampsOf).sum
    s.roomFor stamps →
    ∃ u, exec .noteOn s = .next (passEntry u) ∧
      (∀ (i : Nat) (h : i < vs.length),
        u.voice vs[i] = s.assigned p (s.played p e) i vs.length (s.stampBefore vs i) vs[i]) ∧
      (∀ v, v ∉ vs → u.voice v = s.voice v) ∧
      u.sequence = s.sequence + BitVec.ofNat 32 stamps ∧
      u.part p = { s.entered p e with changeCount := (u.part p).changeCount } ∧
      (∀ q, q ≠ p → u.part q = s.part q) ∧
      u.time = s.time ∧ u.patch = s.patch ∧ u.router = s.router ∧ u.panel = s.panel ∧
      u.refresh = { s.refresh with turn := u.refresh.turn } ∧
      ((∀ v ∈ vs, (s.voice v).state ≠ .tuning) →
        u = { s with
              voices := u.voices, parts := u.parts, page := u.page, sequence := u.sequence
              refresh := { s.refresh with turn := u.refresh.turn } } ∧
        sameOutside (fun k => inPart p k ∨ ∃ v ∈ vs, inVoice v k) s.page u.page)

/-- A NOTE_ON of a POLY part whose note voices of the part already hold reuses all of them in ascending voice
number, each with a fresh age stamp and its unison index and count kept (R22, R23, R42). That a retrigger, or a
reuse whose gate rises at once, is one change of the record is log entry 9 (DEDUCED); a counter without room is
StampsStayDistinct. -/
def Obligations.NoteOnReusesHolders : Prop :=
  ∀ s p e, s.playsNote p e → (s.latched p).mode = .poly → s.holders p e.info.note ≠ [] →
    s.StampsDistinct → s.roomFor (s.holders p e.info.note).length →
    ∃ u, exec .noteOn s = .next (passEntry u) ∧
      (∀ (i : Nat) (h : i < (s.holders p e.info.note).length),
        let v := (s.holders p e.info.note)[i]
        let x := { s.voice v with ageStamp := s.sequence + 1#32 + BitVec.ofNat 32 i }
        u.voice v =
          match (s.voice v).state with
          | .releasing => (s.startedRecord .sounding p e.info v x).counted
          | .sounding | .held => (s.retriggered p false e.info v x).counted
          | .stealing => (({ x with pending := some ⟨e.info, false⟩ } : Voice).regate s.running).counted
          | .free | .tuning | .out => s.voice v) ∧
      (∀ v, v ∉ s.holders p e.info.note → u.voice v = s.voice v) ∧
      u.sequence = s.sequence + BitVec.ofNat 32 (s.holders p e.info.note).length ∧
      u.part p = { s.latched p with changeCount := (u.part p).changeCount } ∧
      (∀ q, q ≠ p → u.part q = s.part q) ∧
      u = { s with
            voices := u.voices, parts := u.parts, page := u.page, sequence := u.sequence
            refresh := { s.refresh with turn := u.refresh.turn } } ∧
      sameOutside (fun k => inPart p k ∨ ∃ v ∈ s.holders p e.info.note, inVoice v k) s.page u.page

/-- A TUNING voice among those that a NOTE_ON chooses is preempted: the note starts on it at once, and the tune
engine abandons the target, which rejoins the queue as a yield (R27, R103), or at its third yield fails YIELDED,
without fatal effect and with a log entry unless the kind is masked (R100, R101); where no target is left the TUNE
then completes, OK or PARTIAL (R105). That the start is one change of the voice's record is log entry 9
(DEDUCED). -/
def Obligations.NoteOnPreemptsTuningVoice : Prop :=
  ∀ s p e v j r, s.playsNote p e → s.allocates p e → v ∈ s.chosen p → (s.voice v).state = .tuning →
    s.tune.job = some j → voiceOf j.target = v → s.tune.req = some r →
    let vs := s.chosen p
    s.roomFor (vs.map s.stampsOf).sum →
    ∃ u, exec .noteOn s = .next (passEntry u) ∧
      (∀ (i : Nat) (h : i < vs.length), vs[i] = v →
        u.voice v =
          (s.startedRecord .sounding p (s.played p e) v
            { s.voice v with
              ageStamp := s.stampBefore vs i + 1#32, unisonIndex := BitVec.ofNat 8 i
              unisonCount := BitVec.ofNat 8 vs.length }).counted) ∧
      (∀ x, x ∉ vs → u.voice x = s.voice x) ∧
      u.tune.engine = .idle ∧ u.tune.job = none ∧
      (j.yields < 2 →
        u = { s with
              voices := u.voices, parts := u.parts, page := u.page, sequence := u.sequence
              tune := { s.tune with engine := .idle, job := none, queue := s.tune.queue ++ [⟨j.target, j.yields + 1⟩] }
              refresh := { s.refresh with turn := u.refresh.turn } } ∧
        Page.readWords u.page statusBase 32 = statusWords u.tune ∧
        sameOutside (fun k => inPart p k ∨ (∃ x ∈ vs, inVoice x k) ∨ inStatus k) s.page u.page) ∧
      (2 ≤ j.yields → ∃ w,
        w = { s with tune := w.tune, page := w.page, port := s.failPort .yielded r false } ∧
        w.tune =
          { s.tune with
            engine := .idle, job := none, recs := w.tune.recs, faultCount := w.tune.faultCount
            nextIndex := w.tune.nextIndex, firstFault := w.tune.firstFault
            req := if s.tune.queue = [] then none else some r } ∧
        w.target j.target = { s.target j.target with health := .stale } ∧
        (∀ t, t ≠ j.target → w.target t = s.target t) ∧
        Page.readWords w.page (tuneBase j.target) 12 = tuneWords (w.target j.target) ∧
        Page.readWords w.page statusBase 32 = statusWords w.tune ∧
        s.logsTo .yielded j.lastCount j r false w ∧
        sameOutside (fun k => inStatus k ∨ inWords (tuneBase j.target) 12 k ∨ inWords (faultBase 0) 128 k)
          s.page w.page ∧
        let x := if s.tune.queue = [] then complete r.req r.outcome w else w
        u = { x with
              voices := u.voices, parts := u.parts, page := u.page, sequence := u.sequence
              refresh := { s.refresh with turn := u.refresh.turn } } ∧
        sameOutside (fun k => inPart p k ∨ ∃ y ∈ vs, inVoice y k) x.page u.page)

/-- A NOTE_ON of a mono part that is not idle chooses no voice: the held-note list takes the note, and if the
priority note changes every voice of the mono set follows it, by its state, LEGATO and whether the change is
connected, with no stamp taken (R38 to R40, R42). -/
def Obligations.MonoSetFollowsNoteOn : Prop :=
  ∀ s p e, s.playsNote p e → s.idlePart p = false → (s.part p).mode ≠ .poly →
    let before := (s.part p).held
    let after := heldInsert e.info.note before
    ∃ u, exec .noteOn s = .next (passEntry u) ∧
      u.part p = { s.part p with held := after, changeCount := (u.part p).changeCount } ∧
      (∀ q, q ≠ p → u.part q = s.part q) ∧
      (priorityNote (s.part p).mode before = priorityNote (s.part p).mode after → u.voices = s.voices) ∧
      (∀ n, priorityNote (s.part p).mode after = some n → priorityNote (s.part p).mode before ≠ some n →
        ∀ v, u.voice v =
          if (s.voice v).part = some p then
            { s.followed p n (if e.info.note = n then some e.info else none) (!before.isEmpty) v (s.voice v) with
              changeCount := (u.voice v).changeCount }
          else s.voice v) ∧
      u = { s with
            voices := u.voices, parts := u.parts, page := u.page
            refresh := { s.refresh with turn := u.refresh.turn } } ∧
      sameOutside (fun k => inPart p k ∨ ∃ v, (s.voice v).part = some p ∧ inVoice v k) s.page u.page

/-- The held-note list keeps its notes in order of arrival, without duplicates and at most 16 (R39): a NOTE_ON on
a mono part moves a note that is in the list to its end, appends one that is not, and with 16 in the list forgets
the oldest first; a NOTE_OFF takes its note out; in POLY the list stays empty (R22). Its priority note is the
newest, lowest or highest by the mode (R40). -/
def Obligations.HeldListKeepsArrivalOrder : Prop :=
  (∀ s p e, s.playsNote p e → s.ListsFit → ∃ u, exec .noteOn s = .next (passEntry u) ∧
    let before := (s.part p).held
    let after := (u.part p).held
    let n := e.info.note
    ((u.part p).mode = .poly → after = []) ∧
    ((u.part p).mode ≠ .poly →
      (n ∈ before → after = before.erase n ++ [n]) ∧
      (n ∉ before → before.length < 16 → after = before ++ [n]) ∧
      (n ∉ before → before.length = 16 → after = before.tail ++ [n])) ∧
    after.Nodup ∧ after.length ≤ 16) ∧
  (∀ s p n c, s.releasesNote p n c → s.ListsFit → ∃ u, exec c s = .next (passEntry u) ∧
    (u.part p).held = (s.part p).held.erase n ∧ (u.part p).mode = (s.part p).mode) ∧
  (∀ (l : List Key) (n : Key), priorityNote .monoLast (l ++ [n]) = some n) ∧
  (∀ (l : List Key) (n : Key), priorityNote .monoLow l = some n ↔ n ∈ l ∧ ∀ m ∈ l, n ≤ m) ∧
  ∀ (l : List Key) (n : Key), priorityNote .monoHigh l = some n ↔ n ∈ l ∧ ∀ m ∈ l, m ≤ n

/-! ### Releases, sustain, bend, cuts -/

/-- A NOTE_OFF, or a NOTE_ON of velocity 0, on a POLY part (R20, R29, R31, R33): every SOUNDING voice of the part
with the note goes to HELD under sustain and otherwise into its release window, with release stamps in
ascending voice number; a STEALING voice with the note pending is marked pending-off; nothing else changes. The
change counts, two for a window of 0 ms, are log entry 9 (DEDUCED); a counter without room is
StampsStayDistinct. -/
def Obligations.PolyNoteOffReleases : Prop :=
  ∀ s p n c, s.releasesNote p n c → (s.part p).mode = .poly →
    let vs := (s.voicesOf p).filter fun v => (s.voice v).state == .sounding && (s.voice v).note.map (·.note) == some n
    s.roomFor vs.length →
    ∃ u, exec c s = .next (passEntry u) ∧
      (∀ v ∈ vs, u.voice v =
        if (s.part p).sustain then (((s.voice v).into .held).regate s.running).counted
        else s.released p (s.releaseStampOf vs v) (s.voice v)) ∧
      (∀ v, (s.voice v).part = some p → (s.voice v).state = .stealing →
        (s.voice v).pending.map (·.info.note) = some n →
        u.voice v =
          { ({ s.voice v with pending := (s.voice v).pending.map fun q => { q with off := true } } : Voice).regate
              s.running with
            changeCount := (u.voice v).changeCount }) ∧
      (∀ v, v ∉ vs → ¬ ((s.voice v).part = some p ∧ (s.voice v).state = .stealing ∧
        (s.voice v).pending.map (·.info.note) = some n) → u.voice v = s.voice v) ∧
      u = { s with voices := u.voices, page := u.page, sequence := u.sequence } ∧
      sameOutside (fun k => ∃ v, (s.voice v).part = some p ∧ inVoice v k) s.page u.page

/-- A NOTE_OFF, or a NOTE_ON of velocity 0, on a mono part (R20, R40, R41): a note not in the list is ignored;
while notes remain the set follows the priority note as a connected change; when the list empties, SOUNDING
voices go to HELD or into their release windows and STEALING ones are marked pending-off. The change counts, two
for a window of 0 ms, are log entry 9 (DEDUCED); a counter without room is StampsStayDistinct. -/
def Obligations.MonoNoteOffReleasesOrFollows : Prop :=
  ∀ s p n c, s.releasesNote p n c → (s.part p).mode ≠ .poly →
    let before := (s.part p).held
    let after := heldRemove n before
    let set := (s.voicesOf p).filter fun v => (s.voice v).state.playing
    let vs := set.filter fun v => (s.voice v).state == .sounding
    s.roomFor vs.length →
    (n ∉ before → exec c s = .next (passEntry s)) ∧
    (n ∈ before → ∃ u, exec c s = .next (passEntry u) ∧
      u.part p = { s.part p with held := after, changeCount := (u.part p).changeCount } ∧
      (∀ q, q ≠ p → u.part q = s.part q) ∧
      (∀ v, v ∉ set → u.voice v = s.voice v) ∧
      (∀ m, priorityNote (s.part p).mode after = some m → u.sequence = s.sequence ∧
        (priorityNote (s.part p).mode before = some m → u.voices = s.voices) ∧
        (priorityNote (s.part p).mode before ≠ some m → ∀ v ∈ set, u.voice v =
          { s.followed p m none true v (s.voice v) with changeCount := (u.voice v).changeCount })) ∧
      (after = [] →
        (∀ v ∈ vs, u.voice v =
          if (s.part p).sustain then (((s.voice v).into .held).regate s.running).counted
          else s.released p (s.releaseStampOf vs v) (s.voice v)) ∧
        (∀ v ∈ set, (s.voice v).state = .held → u.voice v = s.voice v) ∧
        ∀ v ∈ set, (s.voice v).state = .stealing → u.voice v =
          { ({ s.voice v with pending := (s.voice v).pending.map fun q => { q with off := true } } : Voice).regate
              s.running with
            changeCount := (u.voice v).changeCount }) ∧
      u = { s with
            voices := u.voices, parts := u.parts, page := u.page, sequence := u.sequence
            refresh := { s.refresh with turn := u.refresh.turn } } ∧
      sameOutside (fun k => inPart p k ∨ ∃ v ∈ set, inVoice v k) s.page u.page)

/-- HOLD_ON sets the sustain flag of its parts and touches no voice; BEND sets their bend to the bend word
clamped to −8192…8191; a part record whose flag or bend changes advances its change count by one (R12, R20,
R32, R34, R37). -/
def Obligations.HoldOnAndBendSetPartFields : Prop :=
  (∀ s e ps, s.reads e → e.kind = kindHoldOn → someParts e.part = some ps →
    ∃ u, exec .holdOn s = .next (passEntry u) ∧ u = { s with parts := u.parts, page := u.page } ∧
      (∀ p, p ∉ ps → u.part p = s.part p) ∧
      (∀ p ∈ ps, u.part p =
        { s.part p with
          sustain := true
          changeCount :=
            if (s.part p).sustain = true then (s.part p).changeCount else (s.part p).changeCount + 1#16 }) ∧
      sameOutside (fun k => ∃ p ∈ ps, inPart p k) s.page u.page) ∧
  ∀ s e ps, s.reads e → e.kind = kindBend → someParts e.part = some ps →
    ∃ u, exec .bend s = .next (passEntry u) ∧ u = { s with parts := u.parts, page := u.page } ∧
      (∀ p, p ∉ ps → u.part p = s.part p) ∧
      (∀ p ∈ ps,
        (u.part p).bend.toInt = max (-8192) (min 8191 e.bend.toInt) ∧
        u.part p =
          { s.part p with
            bend := (u.part p).bend
            changeCount :=
              if (s.part p).bend = (u.part p).bend then (s.part p).changeCount
              else (s.part p).changeCount + 1#16 }) ∧
      sameOutside (fun k => ∃ p ∈ ps, inPart p k) s.page u.page

/-- HOLD_OFF clears the sustain flag of its parts; where a flag was on, every HELD voice of the part goes into
its release window, with release stamps in the order of the parts and then of the voices (R4, R31, R32, R34). The
change counts, two for a window of 0 ms, are log entry 9 (DEDUCED); a counter without room is
StampsStayDistinct. -/
def Obligations.HoldOffReleasesHeldVoices : Prop :=
  ∀ s e ps, s.reads e → e.kind = kindHoldOff → someParts e.part = some ps →
    let vs := ps.flatMap fun p =>
      if (s.part p).sustain then (s.voicesOf p).filter fun v => (s.voice v).state == .held else []
    s.roomFor vs.length →
    ∃ u, exec .holdOff s = .next (passEntry u) ∧
      (∀ p ∈ ps, u.part p =
        { s.part p with
          sustain := false
          changeCount :=
            if (s.part p).sustain = true then (s.part p).changeCount + 1#16 else (s.part p).changeCount }) ∧
      (∀ p, p ∉ ps → u.part p = s.part p) ∧
      (∀ v p, v ∈ vs → (s.voice v).part = some p →
        u.voice v = s.released p (s.releaseStampOf vs v) (s.voice v)) ∧
      (∀ v, v ∉ vs → u.voice v = s.voice v) ∧
      u.sequence = s.sequence + BitVec.ofNat 32 (vs.filter fun v => (s.voice v).gateRequest).length ∧
      u = { s with voices := u.voices, parts := u.parts, page := u.page, sequence := u.sequence } ∧
      sameOutside (fun k => (∃ p ∈ ps, inPart p k) ∨ ∃ v ∈ vs, inVoice v k) s.page u.page

/-- ALL_OFF cuts every active voice of its parts to FREE, empties their held-note lists and clears their sustain
flags; every other voice, TUNING and OUT ones among them, and every other part field stays (R7, R36). -/
def Obligations.AllOffCutsParts : Prop :=
  ∀ s e ps, s.reads e → e.kind = kindAllOff → someParts e.part = some ps →
    let vs := ps.flatMap fun p => (s.voicesOf p).filter fun v => (s.voice v).state.active
    s.roomFor vs.length →
    ∃ u, exec .allOff s = .next (passEntry u) ∧
      (∀ v ∈ vs, u.voice v = (s.cutRecord .free (s.releaseStampOf vs v) (s.voice v)).counted) ∧
      (∀ v, v ∉ vs → u.voice v = s.voice v) ∧
      (∀ p ∈ ps, u.part p =
        { s.part p with held := [], sustain := false, changeCount := (u.part p).changeCount }) ∧
      (∀ p, p ∉ ps → u.part p = s.part p) ∧
      u.sequence = s.sequence + BitVec.ofNat 32 (vs.filter fun v => (s.voice v).gateRequest).length ∧
      u = { s with voices := u.voices, parts := u.parts, page := u.page, sequence := u.sequence } ∧
      sameOutside (fun k => (∃ p ∈ ps, inPart p k) ∨ ∃ v ∈ vs, inVoice v k) s.page u.page

/-! ### Timers -/

/-- The damp of a STEALING voice ends in the start of its pending note, in HELD, or in FREE, by its
pending-off flag and the part's sustain flag (R30); the release window of a RELEASING voice ends in FREE with
the note absent and free-since set (R6, R31). That a start whose gate rises at once is one change of the record is
log entry 9 (DEDUCED). A timer that does not run delivers nothing, so its command changes nothing, which is the
model's choice (R7; log entry 2). -/
def Obligations.DampAndWindowEnd : Prop :=
  (∀ s v p q, s.up → (s.voice v).damp.isSome → (s.voice v).state = .stealing → (s.voice v).pending = some q →
    (s.voice v).part = some p → ∃ t, exec (.dampExpiry v) s = .next t ∧
      t.voice v =
        (if q.off = false then s.startedRecord .sounding p q.info v (s.voice v)
         else if (s.part p).sustain then s.startedRecord .held p q.info v (s.voice v)
         else
           ({ (s.voice v).into .free with
              note := none, pending := none, damp := none, freeSince := s.time } : Voice).regate s.running).counted ∧
      (∀ w, w ≠ v → t.voice w = s.voice w) ∧
      t = { s with
            voices := t.voices, page := t.page
            refresh := { s.refresh with turn := t.refresh.turn } } ∧
      sameOutside (inVoice v) s.page t.page) ∧
  (∀ s v, s.up → (s.voice v).damp = none → exec (.dampExpiry v) s = .next s) ∧
  (∀ s v, s.up → (s.voice v).window.isSome → (s.voice v).state = .releasing →
    ∃ t, exec (.releaseWindowExpiry v) s = .next t ∧
      t.voice v =
        (({ (s.voice v).into .free with note := none, window := none, freeSince := s.time } : Voice).regate
          s.running).counted ∧
      (∀ w, w ≠ v → t.voice w = s.voice w) ∧
      t = { s with voices := t.voices, page := t.page } ∧ sameOutside (inVoice v) s.page t.page) ∧
  ∀ s v, s.up → (s.voice v).window = none → exec (.releaseWindowExpiry v) s = .next s

/-- The part time advances by one and is written low word first; a retrigger gap whose end it reaches is due,
and its end, taken by the gate unit, re-evaluates the gate (R74, R75, R76, R183; log entry 13). A command that
cannot arrive in the state changes nothing, which is the model's choice (log entry 2). -/
def Obligations.TickEndsGaps : Prop :=
  (∀ s, s.up → ∃ t, exec .partTimeTick s = .next t ∧
    t = { s with time := s.time + 1#32, voices := t.voices, page := t.page } ∧
    Page.readWord t.page 8 = (s.time + 1#32).setWidth 16 ∧
    Page.readWord t.page 9 = ((s.time + 1#32) >>> 16).setWidth 16 ∧
    (∀ v, t.voice v =
      { s.voice v with
        gap :=
          if (s.voice v).gap = .running ∧ (s.voice v).gapUntil = s.time + 1#32 then .due else (s.voice v).gap }) ∧
    sameOutside (inWords 8 2) s.page t.page) ∧
  (∀ s v, s.up → (s.voice v).gap = .due → ∃ t, exec (.gapEnd v) s = .next t ∧
    (let out := s.running && (s.voice v).gateRequest && (s.voice v).pitchWritten
     t.voice v =
      { s.voice v with
        gap := .passed
        gateOut := out
        changeCount :=
          if out = (s.voice v).gateOut then (s.voice v).changeCount else (s.voice v).changeCount + 1#16 }) ∧
    (∀ w, w ≠ v → t.voice w = s.voice w) ∧
    t = { s with voices := t.voices, page := t.page } ∧ sameOutside (inVoice v) s.page t.page) ∧
  ∀ s v, s.up → (s.voice v).gap ≠ .due → exec (.gapEnd v) s = .next s

/-- A glide step moves the accumulator of every voice that is not TUNING and not OUT by S = floor(3072·65536/g)
toward its target, or onto it where it is within S, where g is 0 and where the voice has no part; it changes
nothing else (R51, R59). -/
def Obligations.GlideStepMovesTowardTarget : Prop :=
  ∀ s, s.up → ∃ t, exec .glideStepExpiry s = .next t ∧ t = { s with voices := t.voices } ∧
    ∀ v,
      let x := s.voice v
      let there := x.glideTarget.toNat * 65536
      t.voice v = { x with glide := (t.voice v).glide } ∧
      (x.state = .tuning ∨ x.state = .out → (t.voice v).glide = x.glide) ∧
      (x.state ≠ .tuning → x.state ≠ .out →
        (x.part = none → (t.voice v).glide.toNat = there) ∧
        ∀ p, x.part = some p →
          let g := decodeGlideTime (s.param p pGlideTime)
          let step := 3072 * 65536 / g
          (g = 0 → (t.voice v).glide.toNat = there) ∧
          (1 ≤ g →
            (x.glide.toNat ≤ there → there - x.glide.toNat ≤ step → (t.voice v).glide.toNat = there) ∧
            (there ≤ x.glide.toNat → x.glide.toNat - there ≤ step → (t.voice v).glide.toNat = there) ∧
            (x.glide.toNat + step < there → (t.voice v).glide.toNat = x.glide.toNat + step) ∧
            (there + step < x.glide.toNat → (t.voice v).glide.toNat = x.glide.toNat - step)))

/-- A morph step moves every lane of every context to its value at φ = min(65536, floor(elapsed·65536/T)):
a + floor((b − a)·φ/65536) for a continuous lane, and a below 32768 and b from there on for a stepped one; at
φ = 65536 the context ends, and before it the progress is floor(φ/256) (R134 to R136, R140). -/
def Obligations.MorphStepMovesLanes : Prop :=
  ∀ s, s.up → s.LanesRun → ∃ t, exec .morphStepExpiry s = .next t ∧
    (∀ p, s.context p = none →
      t.part p = s.part p ∧ t.context p = none ∧ ∀ i, t.param p i = s.param p i) ∧
    (∀ p c, s.context p = some c →
      let phi := min 65536 ((s.time - c.startTime).toNat * 65536 / c.morphTime)
      (∀ l ∈ c.lanes,
        (paramSteps l.param = none → ((t.param p l.param).toNat : Int) =
          l.start.toNat + Int.fdiv (((l.target.toNat : Int) - l.start.toNat) * phi) 65536) ∧
        ((paramSteps l.param).isSome → t.param p l.param = if phi < 32768 then l.start else l.target)) ∧
      (∀ i, (∀ l ∈ c.lanes, l.param ≠ i) → t.param p i = s.param p i) ∧
      (phi < 65536 → t.context p = some c ∧ (t.part p).progress.toNat = phi / 256) ∧
      (phi = 65536 → t.context p = none ∧ (t.part p).progress = 0xFFFF#16 ∧
        ∀ l ∈ c.lanes, t.param p l.param = l.target) ∧
      t.part p =
        { s.part p with
          progress := (t.part p).progress
          changeCount :=
            if (t.part p).progress = (s.part p).progress then (s.part p).changeCount
            else (s.part p).changeCount + 1#16 }) ∧
    t.voices = s.voices ∧ t.tune = s.tune ∧ t.refresh = s.refresh ∧ t.router = s.router ∧ t.panel = s.panel ∧
    t.time = s.time ∧ t.sequence = s.sequence ∧
    t.patch = { s.patch with live := t.patch.live, contexts := t.patch.contexts, recalls := t.patch.recalls }

/-- At a morph step every RECALL whose last context ends at its target completes, OK, or SUPERSEDED where it has
lost parts, with its lanes cancelled as detail, each at the last of its parts (R136, R139); the others stay in
flight. (A last context that ends by cancellation is in ParamWriteSetsParameters and PotsConvertAndRoute, one that
ends by supersession in RecallSetsOrMorphs.) A completion is written into its slot, with SLOT set, where the slot
shows TAKEN with the request's ticket; otherwise it is dropped and counted (R197). That the RECALLs of one expiry
complete in ascending order of their last parts is the model's choice (log entry 23). -/
def Obligations.CompletionsReachTheirSlots : Prop :=
  (∀ s, s.up → s.RequestsHeld →
    let gone := fun (p : PartIx) => (s.context p).any fun c =>
      decide (65536 ≤ (s.time - c.startTime).toNat * 65536 / c.morphTime)
    ∃ u, exec .morphStepExpiry s = .next u ∧
      (∀ p, u.context p = if gone p then none else s.context p) ∧
      (∀ p, gone p = true → (u.part p).progress = 0xFFFF#16) ∧
      u.patch.recalls = s.recallsLeft gone id ∧
      (let t := s.afterCompletions (s.recallEnds gone id)
       u = { t with patch := u.patch, parts := u.parts, page := u.page } ∧
       sameOutside (fun k => ∃ p, inPart p k) t.page u.page)) ∧
  (∀ r c s, slotState s.page r.slot = slotTaken → slotTicket s.page r.slot = r.ticket →
    let t := complete r c s
    t = { s with
          sweeper := { s.sweeper with inflight := s.sweeper.inflight.erase r }
          port := s.port.setCause causeSlot, page := t.page } ∧
    slotState t.page r.slot = (if c.result = resOk then slotDone else slotFailed) ∧
    Page.readWords t.page (slotBase r.slot + 13) 3 = [c.result, c.remaining, c.detail] ∧
    sameOutside (fun k => inWords (slotBase r.slot) 1 k ∨ inWords (slotBase r.slot + 13) 3 k) s.page t.page) ∧
  ∀ r c s, ¬ (slotState s.page r.slot = slotTaken ∧ slotTicket s.page r.slot = r.ticket) →
    let t := complete r c s
    t = { s with
          sweeper := { s.sweeper with inflight := s.sweeper.inflight.erase r }
          header := { s.header with discarded := satInc s.header.discarded }, page := t.page } ∧
    Page.readWord t.page 12 = satInc s.header.discarded ∧ sameOutside (inWords 12 1) s.page t.page

/-! ### Requests -/

/-- A request that fails a check completes with the result and detail of the first check it fails, and nothing
else changes than its slot, but for the setup error of a refused SETUP_LOAD (R15, R17, R104, R106, R107, R119,
R125, R128, R168, R178, R196, R198). The remaining count 0 of a refusal, and the detail 0 of a TUNE refused BUSY, are
the model's where the rule of the request gives none (log entry 20, DESIGN CHOICE). -/
def Obligations.RefusedRequestsChangeNothing : Prop :=
  ∀ s i rest, s.atSlot i rest →
    let kind := slotKind s.page i
    let frame (f : Fin 4) (w : Nat) : Word := Page.readWord s.page (frameBase f + w)
    (kind.toNat = 0 ∨ 10 < kind.toNat →
      exec .unknownKind s = .next (s.completes i rest ⟨resUnknownKind, 0#16, 0#16⟩ (s.taken i))) ∧
    (kind = reqSetupLoad → s.port.run = .run →
      exec .setupLoad s = .next (s.completes i rest ⟨resWrongState, 0#16, 0#16⟩ (s.taken i))) ∧
    (∀ c k, (c, k) ∈ runRequests → kind = k → s.port.run = .setup →
      exec c s = .next (s.completes i rest ⟨resWrongState, 0#16, 0#16⟩ (s.taken i))) ∧
    (∀ region entry, kind = reqSetupLoad → s.port.run = .setup → s.loadFails region entry →
      ∃ u, exec .setupLoad s =
          .next (s.completes i rest ⟨resBadArgument, 0#16, wordOf (region * 256 + entry)⟩ u) ∧
        u = { s.taken i with
              header :=
                { s.header with setupError := .loadFailed, setupDetail := wordOf (region * 256 + entry) }
              page := u.page } ∧
        Page.readWords u.page 2 2 = [2#16, wordOf (region * 256 + entry)] ∧
        sameOutside (inWords 2 2) (s.taken i).page u.page) ∧
    (∀ (v : VoiceIx) (p q : PartIx), kind = reqLayout → s.port.run = .run → p ≠ q →
      (s.arg i p.val).getLsbD v.val = true → (s.arg i q.val).getLsbD v.val = true →
      (∀ w, w < v → ∀ a b : PartIx, a ≠ b →
        ¬ ((s.arg i a.val).getLsbD w.val = true ∧ (s.arg i b.val).getLsbD w.val = true)) →
      exec .layout s = .next (s.completes i rest ⟨resBadArgument, 0#16, wordOf v.val⟩ (s.taken i))) ∧
    (kind = reqVoiceService → s.port.run = .run → 2 ≤ (s.arg i 1).toNat →
      exec .voiceService s = .next (s.completes i rest ⟨resBadArgument, 0#16, 0#16⟩ (s.taken i))) ∧
    (kind = reqParamWrite →
      let count := (highByte (s.arg i 0)).toNat
      let none4 := s.arg i 0 &&& 0x000F#16 = 0#16
      (count = 0 ∨ 4 < count ∨ none4 →
        exec .paramWrite s = .next (s.completes i rest ⟨resBadArgument, 0#16, 0#16⟩ (s.taken i))) ∧
      ∀ j, 1 ≤ j → j ≤ count → count ≤ 4 → ¬ none4 → 127 < (s.arg i (2 * j - 1)).toNat →
        (∀ k, 1 ≤ k → k < j → (s.arg i (2 * k - 1)).toNat ≤ 127) →
        exec .paramWrite s = .next (s.completes i rest ⟨resBadArgument, 0#16, wordOf j⟩ (s.taken i))) ∧
    (kind = reqCapture →
      (3 < (s.arg i 0).toNat →
        exec .capture s = .next (s.completes i rest ⟨resBadArgument, 0#16, 0#16⟩ (s.taken i))) ∧
      ((s.arg i 0).toNat ≤ 3 → 3 < (s.arg i 1).toNat →
        exec .capture s = .next (s.completes i rest ⟨resBadArgument, 0#16, 1#16⟩ (s.taken i)))) ∧
    (kind = reqRecall → s.port.run = .run →
      (3 < (s.arg i 0).toNat →
        exec .recall s = .next (s.completes i rest ⟨resBadArgument, 0#16, 0#16⟩ (s.taken i))) ∧
      ∀ f : Fin 4, (s.arg i 0).toNat = f.val →
        (s.arg i 1 &&& 0x000F#16 = 0#16 →
          exec .recall s = .next (s.completes i rest ⟨resBadArgument, 0#16, 1#16⟩ (s.taken i))) ∧
        (s.arg i 1 &&& 0x000F#16 ≠ 0#16 →
          (60000 < (s.arg i 2).toNat →
            exec .recall s = .next (s.completes i rest ⟨resBadArgument, 0#16, 2#16⟩ (s.taken i))) ∧
          ((s.arg i 2).toNat ≤ 60000 →
            (frame f 0 ≠ 0x5A31#16 →
              exec .recall s = .next (s.completes i rest ⟨resBadFrame, 0#16, 1#16⟩ (s.taken i))) ∧
            (frame f 0 = 0x5A31#16 →
              (frame f 1).toNat ≠ ((List.range 128).map fun k => (frame f (4 + k)).toNat).sum % 65536 →
              exec .recall s = .next (s.completes i rest ⟨resBadFrame, 0#16, 2#16⟩ (s.taken i)))))) ∧
    (kind = reqRoute → s.port.run = .run →
      let first := (s.arg i 0).toNat
      let count := (s.arg i 1).toNat
      (255 < first ∨ count = 0 ∨ 256 < first + count →
        exec .route s = .next (s.completes i rest ⟨resBadArgument, 0#16, 0x100#16⟩ (s.taken i))) ∧
      ∀ d : Fin 256, 1 ≤ count → first + count ≤ 256 → first ≤ d.val → d.val < first + count →
        s.descFails d.val → (∀ b : Fin 256, first ≤ b.val → b < d → ¬ s.descFails b.val) →
        exec .route s = .next (s.completes i rest ⟨resBadArgument, 0#16, wordOf d.val⟩ (s.taken i))) ∧
    (kind = reqTune → s.port.run = .run →
      (s.tune.req.isSome →
        exec .tune s = .next (s.completes i rest ⟨resBusy, 0#16, 0#16⟩ (s.taken i))) ∧
      (s.tune.req = none →
        (∀ k, k < 10 → s.tuneArgInRange i k = false → (∀ m, m < k → s.tuneArgInRange i m = true) →
          exec .tune s = .next (s.completes i rest ⟨resBadArgument, 0#16, wordOf k⟩ (s.taken i))) ∧
        ((∀ k, k < 10 → s.tuneArgInRange i k = true) → s.maskArg i ≠ BitVec.allOnes 48 →
          (∀ t : TargetIx, (s.maskArg i).getLsbD t.val = true → mapped s t = false →
            (∀ b : TargetIx, b < t → (s.maskArg i).getLsbD b.val = true → mapped s b = true) →
            exec .tune s =
              .next (s.completes i rest ⟨resBadArgument, 0#16, wordOf (0x100 + t.val)⟩ (s.taken i)))))) ∧
    (kind = reqTuneAbort → s.port.run = .run → s.tune.req = none →
      exec .tuneAbort s = .next (s.completes i rest ⟨resOk, 0#16, 0#16⟩ (s.taken i))) ∧
    (kind = reqTableImport →
      let named := s.namedBy i
      (∀ t ∈ named, s.inTune t → (∀ b ∈ named, b < t → ¬ s.inTune b) →
        exec .tableImport s = .next (s.completes i rest ⟨resBusy, 0#16, wordOf t.val⟩ (s.taken i))) ∧
      ((∀ t ∈ named, ¬ s.inTune t) → ∀ t ∈ named, (∀ b ∈ named, b < t → s.importable b) →
        (¬ s.pointsRise t →
          exec .tableImport s = .next (s.completes i rest ⟨resNotMonotonic, 0#16, wordOf t.val⟩ (s.taken i))) ∧
        (s.pointsRise t → ¬ s.importable t →
          exec .tableImport s = .next (s.completes i rest ⟨resBadArgument, 0#16, wordOf t.val⟩ (s.taken i)))))

/-- A SETUP_LOAD that passes every check installs all its tables, entry by entry as the words of the setup areas
describe them, and sets LOADED, with no voice cut and no live value changed; the CV map and the pot pass period
wait for the end of a running pass (R10, R64, R65, R149, R153, R159, R166, R167, R174, R191, R198, R199). A pot that
becomes UNUSED is emptied, after a conversion of it that is in progress (R153). The model's choices: fields that a
kind does not use are held as 0 (log entry 10), every successful load zeroes the stable-scan counts (log entry
21), and the current trial code is brought within the new bounds (log entry 5; in SETUP no target is current). -/
def Obligations.SetupLoadInstallsTables : Prop :=
  ∀ s i rest, s.atSlot i rest → slotKind s.page i = reqSetupLoad → s.port.run = .setup → s.VoicesFit →
    s.loadPasses →
    let word (k : Nat) : Word := Page.readWord s.page (0x12F0 + k)
    let unused (t : State) (k : PotIx) : Prop := (t.potDesc k).kind = .unused
    ∃ u, ∃ map : List CvSlot, exec .setupLoad s = .next (s.completes i rest ⟨resOk, 0#16, 0#16⟩ u) ∧
      (map.length = s.mapCount ∧ ∀ (k : Nat) (h : k < map.length), s.mapEntryIs k map[k]) ∧
      u.port = { s.port with loaded := true } ∧
      u.header = { s.header with
                   setupError := .none, setupDetail := 0#16, lastPass := u.header.lastPass } ∧
      Page.readWords u.page 2 2 = [0#16, 0#16] ∧
      (∀ p : PartIx, u.part p =
        { s.part p with group := word p.val, changeCount := (u.part p).changeCount }) ∧
      (∀ v p, (u.voice v).part = some p ↔ (word p.val).getLsbD v.val = true) ∧
      (∀ v, u.voice v =
        { s.voice v with
          part := (u.voice v).part, writtenA := (u.voice v).writtenA, writtenB := (u.voice v).writtenB
          writtenF := (u.voice v).writtenF, pitchWritten := (u.voice v).pitchWritten
          gateOut := (u.voice v).gateOut, changeCount := (u.voice v).changeCount }) ∧
      u.sweeper = { (s.taken i).sweeper with nextInterval := some (word 5) } ∧
      u.tune = { s.tune with idleThreshold := word 9 } ∧
      u.panel.debounce = (word 8).toNat ∧
      (∀ k, s.potDescIs k (u.potDesc k)) ∧ (∀ k : SwitchIx, s.switchDescIs k u.router.switches[k]) ∧
      (∀ k : LedIx, s.ledDescIs k u.router.leds[k]) ∧
      (∀ k, (u.pot k).pickup =
        if (u.potDesc k).kind = .param ∨ (u.potDesc k).kind = .bend then .attached else .unrouted) ∧
      (∀ k,
        let busy : Prop := ∃ c, s.panel.conversion = some c ∧ c.pot = k
        (¬ unused s k → unused u k → ¬ busy →
          u.pot k = { s.pot k with history := [], valid := false, pickup := (u.pot k).pickup }) ∧
        (unused s k ∨ ¬ unused u k ∨ busy → u.pot k = { s.pot k with pickup := (u.pot k).pickup })) ∧
      (∀ k, u.switch k =
        { s.switch k with
          stable := 0
          debounced :=
            if ((s.router.switches[k]).kind = .unused ↔ (u.router.switches[k]).kind = .unused) then (s.switch k).debounced
            else false }) ∧
      (s.refresh.turn = none →
        u.refresh.map = map ∧ u.refresh.period = word 6 ∧ u.refresh.overrun = false ∧
        u.refresh.next = none ∧ u.refresh.holds = s.refresh.holds ∧
        (map = [] → u.refresh.turn = none ∧ u.refresh.timer = .stopped ∧ u.header.lastPass = 0#16) ∧
        (map ≠ [] → (∃ t, u.refresh.turn = some t ∧ t.index = 0 ∧ map[0]? = some t.slot) ∧
          u.refresh.timer = .running ∧ u.header.lastPass = s.header.lastPass)) ∧
      (s.refresh.turn ≠ none → u.refresh = { s.refresh with next := some { map := map, period := word 6 } } ∧
        u.header.lastPass = s.header.lastPass) ∧
      (s.panel.conversion = none → u.panel.potPeriod.map (·.val) = some (word 7).toNat ∧
        u.panel.nextPeriod = none ∧ u.panel.potTimer = .running ∧
        (∀ c, u.panel.conversion = some c → ¬ unused u c.pot ∧ c.emptyAfter = false ∧ ∀ k, k < c.pot → unused u k) ∧
        (u.panel.conversion = none → ∀ k, unused u k)) ∧
      (∀ c, s.panel.conversion = some c → u.panel.potPeriod = s.panel.potPeriod ∧
        u.panel.nextPeriod.map (·.val) = some (word 7).toNat ∧
        (¬ unused s c.pot → unused u c.pot → u.panel.conversion = some { c with emptyAfter := true }) ∧
        (unused s c.pot ∨ ¬ unused u c.pot → u.panel.conversion = some c)) ∧
      u.patch = s.patch ∧ u.time = s.time ∧ u.sequence = s.sequence

/-- An accepted LAYOUT moves each voice to the part whose new mask names it: an active voice that changes part is
cut to FREE first, another one only takes the new part; the groups take the masks, and the part's other fields
stay; the detail is the number of voices cut (R7, R15, R16). -/
def Obligations.LayoutMovesVoices : Prop :=
  ∀ s i rest, s.atSlot i rest → slotKind s.page i = reqLayout → s.port.run = .run →
    (∀ (v : VoiceIx) (p q : PartIx), (s.arg i p.val).getLsbD v.val = true → (s.arg i q.val).getLsbD v.val = true →
      p = q) →
    let newPart := fun (v : VoiceIx) => (List.finRange 4).find? fun p => (s.arg i p.val).getLsbD v.val
    let vs := (List.finRange 16).filter fun v => (s.voice v).state.active && (s.voice v).part != newPart v
    s.roomFor vs.length →
    ∃ u, exec .layout s = .next (s.completes i rest ⟨resOk, 0#16, wordOf vs.length⟩ u) ∧
      (∀ v, (s.voice v).part = newPart v → u.voice v = s.voice v) ∧
      (∀ v, (s.voice v).part ≠ newPart v → u.voice v =
        if (s.voice v).state.active then
          ({ s.cutRecord .free (s.releaseStampOf vs v) (s.voice v) with part := newPart v } : Voice).counted
        else ({ ({ s.voice v with part := newPart v } : Voice).regate s.running with
                changeCount := (s.voice v).changeCount + 1#16 })) ∧
      (∀ p : PartIx, u.part p =
        { s.part p with
          group := s.arg i p.val
          changeCount :=
            if (s.part p).group = s.arg i p.val then (s.part p).changeCount
            else (s.part p).changeCount + 1#16 }) ∧
      u = { s.taken i with
            voices := u.voices, parts := u.parts, page := u.page, sequence := u.sequence } ∧
      sameOutside (fun k => (∃ v, inVoice v k) ∨ ∃ p, inPart p k) (s.taken i).page u.page

/-- VOICE_SERVICE OUT cuts the named active voices to OUT, takes FREE ones out, and takes TUNING ones out with the
tune engine's work on them, which completes the TUNE where it was the last (R105); IN brings OUT voices back to
FREE and sets a return state OUT to FREE. The detail is the number of voices changed (R7, R17, R18). -/
def Obligations.VoiceServiceMovesVoices : Prop :=
  ∀ s i rest, s.atSlot i rest → slotKind s.page i = reqVoiceService → s.port.run = .run →
    let named := (List.finRange 16).filter fun v => (s.arg i 0).getLsbD v.val
    let vs := named.filter fun v => (s.voice v).state.active
    let tuned := named.filter fun v => (s.voice v).state == .tuning
    (s.arg i 1 = 0#16 → s.roomFor vs.length → s.VoicesFit →
      let left := s.tune.queue.filter fun e => decide (voiceOf e.target ∉ tuned)
      let n := (named.filter fun v => (s.voice v).state != .out).length
      ∃ u, exec .voiceService s = .next (s.completes i rest ⟨resOk, 0#16, wordOf n⟩ u) ∧
        (∀ v ∈ named, u.voice v =
          match (s.voice v).state with
          | .sounding | .held | .releasing | .stealing =>
            (s.cutRecord .out (s.releaseStampOf vs v) (s.voice v)).counted
          | .free => (((s.voice v).into .out).regate s.running).counted
          | .tuning => (({ (s.voice v).into .out with returnState := none } : Voice).regate s.running).counted
          | .out => s.voice v) ∧
        (∀ v, v ∉ named → u.voice v = s.voice v) ∧
        u.sequence = s.sequence + BitVec.ofNat 32 (vs.filter fun v => (s.voice v).gateRequest).length ∧
        (tuned = [] → u.tune = s.tune) ∧
        (tuned ≠ [] →
          u.tune =
            { s.tune with
              engine := .idle, job := none, queue := left, req := if left = [] then none else s.tune.req } ∧
          Page.readWords u.page statusBase 32 = statusWords u.tune) ∧
        (let t := (s.taken i).afterCompletions
            (if !tuned.isEmpty && left.isEmpty then (s.tune.req.map fun r => (r.req, r.outcome)).toList else [])
         u = { t with voices := u.voices, tune := u.tune, page := u.page, sequence := u.sequence } ∧
         sameOutside (fun k => inStatus k ∨ ∃ v ∈ named, inVoice v k) t.page u.page)) ∧
    (s.arg i 1 = 1#16 →
      let n := (named.filter fun v =>
        (s.voice v).state == .out || ((s.voice v).state == .tuning && (s.voice v).returnState == some .out)).length
      ∃ u, exec .voiceService s = .next (s.completes i rest ⟨resOk, 0#16, wordOf n⟩ u) ∧
        (∀ v ∈ named, u.voice v =
          if (s.voice v).state = .out then
            (({ (s.voice v).into .free with freeSince := s.time } : Voice).regate s.running).counted
          else if (s.voice v).state = .tuning ∧ (s.voice v).returnState = some .out then
            (({ s.voice v with returnState := some .free } : Voice).regate s.running).counted
          else s.voice v) ∧
        (∀ v, v ∉ named → u.voice v = s.voice v) ∧
        u = { s.taken i with voices := u.voices, page := u.page } ∧
        sameOutside (fun k => ∃ v, inVoice v k) (s.taken i).page u.page)

/-- An accepted PARAM_WRITE writes its pairs in order into each named part, sets the edit marks, cancels the lanes
on the parameters written and completes OK with the number of lanes cancelled as detail (R116, R118 to R120, R137,
R201). Each cancelled lane counts for the RECALL that owns its context; a RECALL whose last lane is cancelled
completes before the PARAM_WRITE does (R137, R139). A valid PASS pot on a parameter written to a part of its mask is
judged against its reference, and every other pot keeps its pickup state (R174, R175). -/
def Obligations.ParamWriteSetsParameters : Prop :=
  ∀ s i rest, s.atSlot i rest → slotKind s.page i = reqParamWrite → s.LanesRun → s.RequestsHeld →
    let count := (highByte (s.arg i 0)).toNat
    let named := (List.finRange 4).filter fun p => (s.arg i 0).getLsbD p.val
    let pairs := (List.range count).map fun j => (s.arg i (2 * j + 1), s.arg i (2 * j + 2))
    let writes := fun (k : ParamIx) => pairs.filter fun x => x.1.toNat == k.val
    let hit := fun (p : PartIx) (k : ParamIx) => named.contains p && (writes k).length != 0
    let counted := fun (r : RecallReq) => { r with lanesCancelled := r.lanesCancelled + s.cancelled hit r }
    1 ≤ count → count ≤ 4 → named ≠ [] → (∀ x ∈ pairs, x.1.toNat ≤ 127) →
    ∃ u, exec .paramWrite s =
        .next (s.completes i rest
          ⟨resOk, 0#16, wordOf (named.map fun p => ((s.lanesOf p).filter fun l => hit p l.param).length).sum⟩ u) ∧
      (∀ p ∈ named, (∀ k, u.param p k = ((writes k).getLast?.map (·.2)).getD (s.param p k)) ∧
        (∀ k : ParamIx, (u.part p).marks.getLsbD k.val =
          ((s.part p).marks.getLsbD k.val || (writes k).length != 0)) ∧
        (s.context p = none → u.context p = none) ∧
        ∀ c, s.context p = some c →
          let left := c.lanes.filter fun l => (writes l.param).length == 0
          u.context p = (if left = [] then none else some { c with lanes := left }) ∧
          ((u.part p).progress = if left = [] then 0xFFFF#16 else (s.part p).progress)) ∧
      (∀ p, p ∉ named → u.part p = s.part p ∧ u.context p = s.context p ∧ ∀ k, u.param p k = s.param p k) ∧
      (∀ p, u.part p =
        { s.part p with
          marks := (u.part p).marks, progress := (u.part p).progress, changeCount := (u.part p).changeCount }) ∧
      u.patch.recalls = s.recallsLeft (s.emptied hit) counted ∧
      (∀ k, u.pot k =
        { s.pot k with
          pickup :=
            if (s.potDesc k).passes = true ∧ (s.pot k).valid = true ∧
              ∃ p, (s.potDesc k).mask.getLsbD p.val = true ∧ hit p (s.potDesc k).param = true then u.judgedPickup k
            else (s.pot k).pickup }) ∧
      (let t := (s.taken i).afterCompletions (s.recallEnds (s.emptied hit) counted)
       u = { t with
             parts := u.parts, page := u.page, panel := { s.panel with pots := u.panel.pots }
             patch := { s.patch with live := u.patch.live, contexts := u.patch.contexts, recalls := u.patch.recalls } } ∧
       sameOutside (fun k => (∃ p ∈ named, inPart p k) ∨ ∃ n, inWords (potBase n + 3) 1 k) t.page u.page)

/-- An accepted CAPTURE writes the part's live set into the frame with sum, part, serial and tag, advances the
capture counter, clears the part's edit marks and completes OK with the serial as detail (R118, R122, R124,
R126). -/
def Obligations.CaptureWritesFrame : Prop :=
  ∀ s i rest (p f : Fin 4), s.atSlot i rest → slotKind s.page i = reqCapture →
    (s.arg i 0).toNat = p.val → (s.arg i 1).toNat = f.val →
    let serial := s.patch.captureCounter + 1#16
    ∃ u, exec .capture s = .next (s.completes i rest ⟨resOk, 0#16, serial⟩ u) ∧
      (∀ k : ParamIx, Page.readWord u.page (frameBase f + 4 + k.val) = s.param p k) ∧
      Page.readWord u.page (frameBase f) = 0x5A31#16 ∧
      (Page.readWord u.page (frameBase f + 1)).toNat =
        ((List.finRange 128).map fun k => (s.param p k).toNat).sum % 65536 ∧
      Page.readWord u.page (frameBase f + 2) = wordOf p.val ∧ Page.readWord u.page (frameBase f + 3) = serial ∧
      u = { s.taken i with
            page := u.page, parts := u.parts, patch := { s.patch with captureCounter := serial } } ∧
      u.part p =
        { s.part p with
          marks := 0#128
          changeCount :=
            if (s.part p).marks = 0#128 then (s.part p).changeCount else (s.part p).changeCount + 1#16 } ∧
      (∀ q, q ≠ p → u.part q = s.part q) ∧
      sameOutside (fun k => inWords (frameBase f) 132 k ∨ inPart p k) (s.taken i).page u.page

/-- An accepted RECALL supersedes the contexts of its parts, clears their edit marks and sets their ticket. With
T = 0 it sets every parameter to the frame's value and completes; with T ≥ 1 it makes for each part with a
differing parameter one context with a lane for each of them, and stays in flight if it made any (R118, R128,
R129, R131 to R133, R138, R140). A superseded context counts as a part lost for its RECALL, which completes
SUPERSEDED with its last one (R138, R139). A valid PASS pot whose mask has a named part is judged against its
reference, and every other pot keeps its pickup state (R174, R175). -/
def Obligations.RecallSetsOrMorphs : Prop :=
  ∀ s i rest (f : Fin 4), s.atSlot i rest → slotKind s.page i = reqRecall → s.port.run = .run →
    (s.arg i 0).toNat = f.val →
    let named := (List.finRange 4).filter fun p => (s.arg i 1).getLsbD p.val
    let copy := fun (k : ParamIx) => Page.readWord s.page (frameBase f + 4 + k.val)
    let t := (s.arg i 2).toNat
    let lanes := fun (p : PartIx) =>
      ((List.finRange 128).filter fun k => s.param p k != copy k).map fun k => (⟨k, s.param p k, copy k⟩ : Lane)
    named ≠ [] → t ≤ 60000 → Page.readWord s.page (frameBase f) = 0x5A31#16 →
    (Page.readWord s.page (frameBase f + 1)).toNat = ((List.finRange 128).map fun k => (copy k).toNat).sum % 65536 →
    s.RequestsHeld →
    let gone := fun (p : PartIx) => named.contains p
    let counted := fun (r : RecallReq) =>
      { r with
        partsLost := r.partsLost + (named.filter fun p => (s.context p).any fun c => c.owner == r.req.id).length }
    let settled : Prop := t = 0 ∨ ∀ p : PartIx, p ∈ named → lanes p = []
    ∃ u, (settled → exec .recall s = .next (s.completes i rest ⟨resOk, 0#16, 0#16⟩ u)) ∧
      (¬ settled → exec .recall s = .next (goOnWithSlots rest u)) ∧
      (∀ p ∈ named,
        u.part p =
          { s.part p with
            marks := 0#128
            recallTicket := slotTicket s.page i
            progress := if t = 0 ∨ lanes p = [] then 0xFFFF#16 else 0#16
            changeCount := (u.part p).changeCount } ∧
        (∀ k, u.param p k = if t = 0 then copy k else s.param p k) ∧
        u.context p =
          if t = 0 ∨ lanes p = [] then none
          else some { owner := s.sweeper.nextId, startTime := s.time, morphTime := t, lanes := lanes p }) ∧
      (∀ p, p ∉ named → u.part p = s.part p ∧ u.context p = s.context p ∧ ∀ k, u.param p k = s.param p k) ∧
      (∀ c p r, p ∈ named → s.context p = some c → r ∈ s.patch.recalls → r.req.id = c.owner →
        (∀ q, q ∉ named → ∀ d, s.context q = some d → d.owner ≠ c.owner) →
        r.req ∉ u.sweeper.inflight) ∧
      (settled → u.patch.recalls = s.recallsLeft gone counted) ∧
      (¬ settled → u.patch.recalls = s.recallsLeft gone counted ++
        [{ req := s.request i, partsLost := 0, lanesCancelled := 0, copy := Vector.ofFn copy }]) ∧
      (∀ k, u.pot k =
        { s.pot k with
          pickup :=
            if (s.potDesc k).passes = true ∧ (s.pot k).valid = true ∧
              ∃ p ∈ named, (s.potDesc k).mask.getLsbD p.val = true then u.judgedPickup k
            else (s.pot k).pickup }) ∧
      (let x := (s.taken i).afterCompletions (s.recallEnds gone counted)
       u = { x with
             parts := u.parts, page := u.page, panel := { s.panel with pots := u.panel.pots }
             patch := { s.patch with live := u.patch.live, contexts := u.patch.contexts, recalls := u.patch.recalls } } ∧
       sameOutside (fun k => (∃ p ∈ named, inPart p k) ∨ ∃ n, inWords (potBase n + 3) 1 k) x.page u.page)

/-- An accepted ROUTE installs the descriptors of its range, as the words of the setup area describe them, and no
other, sets the pickup state of each pot whose routing changed, by its new kind or by judging a valid PASS pot
against its reference, and completes OK with the number of descriptors changed (R159, R166 to R168, R174, R175,
R178). A pot that becomes UNUSED is emptied, after a conversion of it that is in progress, and another one keeps its
history and valid flag (R153). That fields which a kind does not use are held as 0, and so count as no change, is the
model's choice (log entry 10), and so is that a PASS pot whose emptying waits for its conversion is still judged by
its valid flag (log entry 16, DEDUCED). -/
def Obligations.RouteInstallsDescriptors : Prop :=
  ∀ s i rest, s.atSlot i rest → slotKind s.page i = reqRoute → s.port.run = .run →
    let first := (s.arg i 0).toNat
    let count := (s.arg i 1).toNat
    let covers := fun (d : Nat) => first ≤ d ∧ d < first + count
    first ≤ 255 → 1 ≤ count → first + count ≤ 256 → (∀ d, covers d → ¬ s.descFails d) →
    ∃ u,
      (let changed :=
        ((List.finRange 128).filter fun k => s.potDesc k != u.potDesc k).length +
          ((List.finRange 64).filter fun k => s.router.switches[k] != u.router.switches[k]).length +
          ((List.finRange 64).filter fun k => s.router.leds[k] != u.router.leds[k]).length
       exec .route s = .next (s.completes i rest ⟨resOk, 0#16, wordOf changed⟩ u)) ∧
      (∀ k : PotIx, if covers k.val then s.potDescIs k (u.potDesc k) else u.potDesc k = s.potDesc k) ∧
      (∀ k : SwitchIx, if covers (128 + k.val) then s.switchDescIs k u.router.switches[k]
        else u.router.switches[k] = s.router.switches[k]) ∧
      (∀ k : LedIx, if covers (192 + k.val) then s.ledDescIs k u.router.leds[k]
        else u.router.leds[k] = s.router.leds[k]) ∧
      (∀ k : PotIx,
        let old := s.potDesc k
        let new := u.potDesc k
        let same : Prop := old.kind = new.kind ∧ old.mask = new.mask ∧ old.pass = new.pass ∧ old.param = new.param
        let x := s.pot k
        let y := u.pot k
        let busy : Prop := ∃ c, s.panel.conversion = some c ∧ c.pot = k
        (same → y.pickup = x.pickup) ∧
        (¬ same →
          (new.kind = .unused ∨ new.kind = .report → y.pickup = .unrouted) ∧
          (new.kind = .bend ∨ (new.kind = .param ∧ (new.pass = false ∨ x.valid = false)) → y.pickup = .attached) ∧
          (new.kind = .param → new.pass = true → x.valid = true → y.pickup = u.judgedPickup k)) ∧
        (old.kind ≠ .unused → new.kind = .unused → ¬ busy →
          y = { x with history := [], valid := false, pickup := y.pickup }) ∧
        (old.kind = .unused ∨ new.kind ≠ .unused ∨ busy → y = { x with pickup := y.pickup })) ∧
      (∀ c, s.panel.conversion = some c → u.panel.conversion =
        if (s.potDesc c.pot).kind ≠ .unused ∧ (u.potDesc c.pot).kind = .unused then some { c with emptyAfter := true }
        else some c) ∧
      (s.panel.conversion = none → u.panel.conversion = none) ∧
      (∀ k : SwitchIx,
        if ((s.router.switches[k]).kind = .unused ↔ (u.router.switches[k]).kind = .unused) then
          u.switch k = s.switch k
        else u.switch k = { s.switch k with debounced := false, stable := 0 }) ∧
      u = { s.taken i with
            router := u.router, page := u.page
            panel :=
              { s.panel with
                pots := u.panel.pots, switches := u.panel.switches, conversion := u.panel.conversion } } ∧
      sameOutside (fun k => inWords 0x2A0 0x80 k ∨ inWords 0x5C0 0x200 k) (s.taken i).page u.page

/-- An accepted TUNE queues its targets in ascending order with yield count 0 and stays in flight, or completes
OK at once where it names none (R83, R104, R109); a TUNE_ABORT in RUN ends a TUNE in flight: the current target is
abandoned and its voice returned, FREE or OUT by R88, the queue is emptied, and the TUNE completes ABORTED (R88,
R105, R106). The remaining count 0 of a TUNE_ABORT is the model's (log entry 20, DESIGN CHOICE). -/
def Obligations.TuneStartsAndAborts : Prop :=
  (∀ s i rest, s.atSlot i rest → slotKind s.page i = reqTune → s.port.run = .run → s.tune.req = none →
    (∀ k, k < 10 → s.tuneArgInRange i k = true) → (∀ t ∈ s.namedBy i, mapped s t = true) →
    (s.namedBy i = [] → exec .tune s = .next (s.completes i rest ⟨resOk, 0#16, 0#16⟩ (s.taken i))) ∧
    (s.namedBy i ≠ [] → ∃ u, exec .tune s = .next (goOnWithSlots rest u) ∧
      u = { s.taken i with tune := u.tune, page := u.page } ∧
      u.tune.queue = (s.namedBy i).map (fun t => ⟨t, 0⟩) ∧
      (∃ r, u.tune.req = some r ∧ r.req = s.request i ∧ (r.quick = true ↔ s.arg i 3 = 1#16) ∧
        (r.idleSched = true ↔ s.arg i 4 = 1#16) ∧ (r.yieldPolicy = true ↔ s.arg i 5 = 1#16) ∧
        r.faultMask = s.arg i 6 ∧ r.severityMask = s.arg i 7 ∧ r.tolerance = (s.arg i 8).toNat ∧
        r.timeoutCode = (s.arg i 9).toNat ∧ (∀ t : TargetIx, r.named.getLsbD t.val = true ↔ t ∈ s.namedBy i) ∧
        r.committed = 0#48 ∧ r.fatal = 0#48) ∧
      u.tune = { s.tune with queue := u.tune.queue, req := u.tune.req } ∧
      Page.readWords u.page statusBase 32 = statusWords u.tune ∧
      sameOutside inStatus (s.taken i).page u.page)) ∧
  ∀ s i rest r, s.atSlot i rest → slotKind s.page i = reqTuneAbort → s.port.run = .run → s.tune.req = some r →
    s.VoicesFit →
    ∃ u, exec .tuneAbort s =
        .next (s.completes i rest ⟨resOk, 0#16, 1#16⟩ (complete r.req r.aborted u)) ∧
      u = { s.taken i with
            voices := u.voices, page := u.page
            tune := { s.tune with engine := .idle, job := none, queue := [], req := none } } ∧
      (s.tune.job = none → u.voices = s.voices) ∧
      (∀ j, s.tune.job = some j →
        let v := voiceOf j.target
        (∀ w, w ≠ v → u.voice w = s.voice w) ∧
        (s.goesFree r v → u.voice v = s.returned .free (s.voice v)) ∧
        (¬ s.goesFree r v → u.voice v = s.returned .out (s.voice v))) ∧
      sameOutside (fun k => inStatus k ∨ ∃ v, inVoice v k) (s.taken i).page u.page

/-- A TABLE_IMPORT whose entries all pass gives every named target its table and drift, health TUNED and its
serial advanced, republishes the entries, and completes OK with the number of targets (R81, R82, R107). Its
remaining count 0 is the model's (log entry 20, DESIGN CHOICE). -/
def Obligations.TableImportInstallsTables : Prop :=
  ∀ s i rest, s.atSlot i rest → slotKind s.page i = reqTableImport →
    (∀ t ∈ s.namedBy i, ¬ s.inTune t ∧ s.importable t) →
    ∃ u, exec .tableImport s = .next (s.completes i rest ⟨resOk, 0#16, wordOf (s.namedBy i).length⟩ u) ∧
      (∀ t ∈ s.namedBy i,
        (∀ k : Fin 9, (u.target t).table[k] = Page.readWord s.page (tuneBase t + k.val)) ∧
        (u.target t).drift.toInt = (Page.readWord s.page (tuneBase t + 9)).toInt ∧
        (u.target t).health = .tuned ∧ (u.target t).serial = (s.target t).serial + 1#16 ∧
        Page.readWords u.page (tuneBase t) 12 = tuneWords (u.target t)) ∧
      (∀ t, t ∉ s.namedBy i → u.target t = s.target t) ∧
      u = { s.taken i with tune := { s.tune with recs := u.tune.recs }, page := u.page } ∧
      sameOutside (fun k => ∃ t ∈ s.namedBy i, inWords (tuneBase t) 12 k) (s.taken i).page u.page

/-! ### The tune engine's measurements -/

/-- The IDLE engine takes the first queue entry whose voice may be borrowed (R85, R86): the voice enters
TUNING with its return state, TS0–TS5 select the target, and the initial code is offered (R89, R98); with no
such entry nothing is taken. The settle timer's expiry enters MEASURE under the gate timeout, and an edge
opens the window (R90, R91). The model's choices: a command that cannot arrive in the state changes nothing (log
entry 2), and a queued target that has lost its pitch slot since the TUNE was accepted is taken like any other (log
entry 5). -/
def Obligations.TuneTakesTargetAndMeasures : Prop :=
  (∀ s r e before after c, s.up → s.TablesValid → s.tune.engine = .idle → s.tune.req = some r →
    s.tune.queue = before ++ e :: after → s.mayBorrow r e → (∀ x ∈ before, ¬ s.mayBorrow r x) →
    s.pitchSlot e.target c →
    let v := voiceOf e.target
    let point := if r.quick then TunePoint.quick else .full 0
    ∃ u, exec .targetTake s = .next u ∧
      u.voice v =
        (({ (s.voice v).into .tuning with
            returnState := some (if (s.voice v).state = .out then .out else .free) } : Voice).regate
          s.running).counted ∧
      (∀ w, w ≠ v → u.voice w = s.voice w) ∧
      u.tune =
        { s.tune with
          engine := .wait
          queue := before ++ after
          select := e.target
          offers := s.tune.offers + 1
          job := some
            { target := e.target, yields := e.yields, point := point, attempt := 1, trials := 1
              code := s.startCode e.target point [] c, offer := s.tune.offers + 1, newTable := []
              firstError := none, windowOpen := false, lastCount := 0#32, timer := 0 } } ∧
      u = { s with voices := u.voices, tune := u.tune, page := u.page } ∧
      Page.readWords u.page statusBase 32 = statusWords u.tune ∧
      sameOutside (fun k => inStatus k ∨ inVoice v k) s.page u.page) ∧
  (∀ s r e before after, s.up → s.tune.engine = .idle → s.tune.req = some r →
    s.tune.queue = before ++ e :: after → s.mayBorrow r e → (∀ x ∈ before, ¬ s.mayBorrow r x) →
    (∀ c, ¬ s.pitchSlot e.target c) →
    ∃ u j, exec .targetTake s = .next u ∧ u.tune.engine = .wait ∧ u.tune.job = some j ∧ j.target = e.target ∧
      j.yields = e.yields ∧ u.tune.select = e.target ∧ u.tune.queue = before ++ after ∧
      (u.voice (voiceOf e.target)).state = .tuning) ∧
  (∀ s, s.up →
    (s.tune.engine ≠ .idle ∨ s.tune.req = none ∨
      ∃ r, s.tune.req = some r ∧ ∀ e ∈ s.tune.queue, ¬ s.mayBorrow r e) →
    exec .targetTake s = .next s) ∧
  (∀ s j r, s.up → s.tune.engine = .settle → s.tune.job = some j → s.tune.req = some r →
    ∃ u, exec .settleExpiry s = .next u ∧
      u = { s with
            page := u.page
            tune :=
              { s.tune with
                engine := .measure
                job := some { j with windowOpen := false, timer := 100 * 2 ^ r.timeoutCode } } } ∧
      Page.readWords u.page statusBase 32 = statusWords u.tune ∧ sameOutside inStatus s.page u.page) ∧
  (∀ s, s.up → s.tune.engine ≠ .settle → exec .settleExpiry s = .next s) ∧
  (∀ s j, s.up → s.tune.engine = .measure → s.tune.job = some j →
    exec .measurementWindowOpen s = .next
      { s with tune := { s.tune with job := some { j with windowOpen := true } } }) ∧
  ∀ s, s.up → s.tune.engine ≠ .measure → exec .measurementWindowOpen s = .next s

/-- A measurement of a FULL search within the tolerance is confirmed at the same code under a new gate timeout
(R93); another steps the code by Δ of R94, unless the source cannot reach its note, which fails the target
OUT_OF_RANGE, or this was the sixth code; a confirm that wanders, or a sixth code, fails the attempt, which is
retried below attempt 3 and then fails the target (R92 to R95, R100). The end of the target completes the TUNE
where it was the last (R105). On a span of 1 the limit of R94 is 0, so Δ is 0 and the code does not move: R94's
formula is followed there and not its words that every step moves the code (log entry 16, DEDUCED). -/
def Obligations.FullWindowJudgesPoint : Prop :=
  ∀ s j r c k n, s.measures j r → j.point = .full k → s.pitchSlot j.target c →
    let e := errorOf n
    let tol : Int := r.tolerance
    let table := (s.target j.target).table
    let span : Int :=
      if h : k.val = 0 then (table[1]).toNat - (table[0]).toNat
      else (table[k]).toNat - (table[k.val - 1]'(by omega)).toNat
    let raw := Int.fdiv (e * span + 6000) 12000
    let delta := max (-(span / 2)) (min (span / 2) (if raw = 0 then e.sign else raw))
    let outward := (j.code = c.high ∧ 0 < delta) ∨ (j.code = c.low ∧ delta < 0)
    let wanders := ∃ e1, j.firstError = some e1 ∧ tol < |e| ∧ 4 * tol < |e1 - e|
    let steps := tol < |e| ∧ ∀ e1, j.firstError = some e1 → |e1 - e| ≤ 4 * tol
    let j' := { j with lastCount := n, windowOpen := false }
    ∃ u, exec (.measurementWindowClose n) s = .next u ∧
      (j.firstError = none → |e| ≤ tol →
        u = { s with
              page := u.page
              tune :=
                { s.tune with
                  job := some { j' with firstError := some e, timer := 100 * 2 ^ r.timeoutCode } } } ∧
        Page.readWords u.page statusBase 32 = statusWords u.tune ∧ sameOutside inStatus s.page u.page) ∧
      (steps → outward → s.failsTo .outOfRange n j r u) ∧
      (steps → ¬ outward → j.trials ≠ 6 →
        s.offersTo { j' with trials := j.trials + 1, code := c.within (j.code.toNat + delta) } u) ∧
      (steps → ¬ outward → j.trials = 6 → j.attempt < 3 → s.retriesTo j' c u) ∧
      (steps → ¬ outward → j.trials = 6 → 3 ≤ j.attempt → s.failsTo .noConverge n j r u) ∧
      (wanders → j.attempt < 3 → s.retriesTo j' c u) ∧
      (wanders → 3 ≤ j.attempt → s.failsTo .unstable n j r u)

/-- A confirm within the tolerance ends the point (R93, R96): a code not above the last point's fails the target
NOT_MONOTONIC; otherwise the code joins the partial table and the search goes on with the next point, and after
point 8 the nine codes are committed with drift 0, health TUNED and the serial advanced (R97), which ends the
target (R88), and with it the TUNE where it was the last (R105). -/
def Obligations.PointDoneGoesOnOrCommits : Prop :=
  ∀ s j r c (k : Fin 9) n e1, s.measures j r → j.point = .full k → s.pitchSlot j.target c →
    j.firstError = some e1 → |errorOf n| ≤ (r.tolerance : Int) →
    let falls := k ≠ 0 ∧ ∃ x, j.newTable.getLast? = some x ∧ j.code ≤ x
    let t := j.target
    ∃ u, exec (.measurementWindowClose n) s = .next u ∧
      (falls → s.failsTo .notMonotonic n j r u) ∧
      (¬ falls → ∀ h : k.val < 8,
        let next : Fin 9 := ⟨k.val + 1, by omega⟩
        s.offersTo
          { j with
            point := .full next, attempt := 1, trials := 1, lastCount := 0#32, newTable := j.newTable ++ [j.code]
            code := s.startCode t (.full next) [j.code] c } u) ∧
      (¬ falls → k = 8 →
        (u.target t).table.toList = j.newTable ++ [j.code] ∧ (u.target t).drift = 0#8 ∧
        (u.target t).health = .tuned ∧ (u.target t).serial = (s.target t).serial + 1#16 ∧
        (∀ q, q ≠ t → u.target q = s.target q) ∧
        s.endsTo j { r with committed := r.committed ||| bitMask 48 t.val }
          (s.voice (voiceOf t)).returnState s.port u ∧
        Page.readWords u.page (tuneBase t) 12 = tuneWords (u.target t) ∧
        u.tune.faultCount = s.tune.faultCount ∧ u.tune.firstFault = s.tune.firstFault ∧
        u.tune.nextIndex = s.tune.nextIndex)

/-- The window of a QUICK check moves the drift by floor((32·e + 62)/125) and ends the target as a success, or
fails it OUT_OF_RANGE where the drift would leave −128…127 (R99). A gate timeout fails the attempt NO_SIGNAL:
it is retried below attempt 3 and then fails the target (R91, R93, R95, R98, R100). The end of the target
completes the TUNE where it was the last (R105). Without an open window, or
out of MEASURE, nothing closes and nothing times out, so the command changes nothing, which is the model's
choice (log entry 2). -/
def Obligations.QuickCheckAndGateTimeout : Prop :=
  (∀ s j r n, s.measures j r → j.point = .quick →
    let t := j.target
    let drift := (s.target t).drift.toInt + Int.fdiv (32 * errorOf n + 62) 125
    ∃ u, exec (.measurementWindowClose n) s = .next u ∧
      (-128 ≤ drift → drift ≤ 127 →
        (u.target t).drift.toInt = drift ∧ u.target t = { s.target t with drift := (u.target t).drift } ∧
        (∀ q, q ≠ t → u.target q = s.target q) ∧
        s.endsTo j { r with committed := r.committed ||| bitMask 48 t.val }
          (s.voice (voiceOf t)).returnState s.port u ∧
        Page.readWords u.page (tuneBase t) 12 = tuneWords (u.target t) ∧
        u.tune.faultCount = s.tune.faultCount ∧ u.tune.firstFault = s.tune.firstFault ∧
        u.tune.nextIndex = s.tune.nextIndex) ∧
      (drift < -128 ∨ 127 < drift → s.failsTo .outOfRange n j r u)) ∧
  (∀ s j r c, s.up → s.tune.engine = .measure → s.tune.job = some j → s.tune.req = some r → s.VoicesFit →
    s.TablesValid → s.pitchSlot j.target c →
    ∃ u, exec .gateTimeout s = .next u ∧
      (j.attempt < 3 → s.retriesTo j c u) ∧ (3 ≤ j.attempt → s.failsTo .noSignal 0#32 j r u)) ∧
  (∀ s n, s.up → (s.tune.engine ≠ .measure ∨ ∀ j, s.tune.job = some j → j.windowOpen = false) →
    exec (.measurementWindowClose n) s = .next s) ∧
  ∀ s, s.up → s.tune.engine ≠ .measure → exec .gateTimeout s = .next s

/-! ### The refresh engine and the codes of its slots -/

/-- The period timer's expiry starts a pass, or marks one that still runs as in overrun (R66, R69). The end of
a slot's turn strobes its hold with its code (R67); its event completes the written set of its owner, whose
gate may then rise (R68, R73, R74), and begins the settle time of the offer it carries (R90); then the next
slot has its turn with its address and code, or the pass ends: a waiting map is installed, an expired timer
starts the next pass, and otherwise the lines rest and the overrun is over (R65, R66, R69, R77). The model's
choices: a command that cannot arrive in the state changes nothing (log entry 2); an installation brings the
trial code within the bounds of the new map, under its offer as it stands (log entry 5); the two data lines
have free levels in a dwell (log entry 18); a code written while the voice is TUNING joins no written set,
whenever it was obtained, and a trial or park code joins none even after the voice's return (log entry 22,
DEDUCED). -/
def Obligations.RefreshWritesSlots : Prop :=
  let rest : RefreshLines := { dsync := true, shsN := true, dclk := false, ddata := false }
  let begun (s : State) (i : Nat) (c : CvSlot) : Turn :=
    { index := i, slot := c, code := (slotCode s c).1, source := (slotCode s c).2, fresh := true }
  (∀ s c cs, s.up → s.refresh.timer = .running → s.refresh.turn = none → s.refresh.map = c :: cs →
    exec .refreshPeriodExpiry s = .next
      { s with
        refresh :=
          { s.refresh with
            turn := some (begun s 0 c), address := c.address, lines := dwellLines (slotCode s c).1
            dac := some (slotCode s c).1 } }) ∧
  (∀ s, s.up → s.refresh.timer = .running → s.refresh.turn ≠ none → s.refresh.overrun = false →
    ∃ u, exec .refreshPeriodExpiry s = .next u ∧
      u = { s with
            refresh := { s.refresh with timer := .expired, overrun := true }
            header := { s.header with refreshOverruns := satInc s.header.refreshOverruns }
            port := s.port.setCause causeRefresh
            page := u.page } ∧
      Page.readWord u.page 11 = satInc s.header.refreshOverruns ∧ sameOutside (inWords 11 1) s.page u.page) ∧
  (∀ s, s.up → s.refresh.timer = .running → s.refresh.turn ≠ none → s.refresh.overrun = true →
    exec .refreshPeriodExpiry s = .next { s with refresh := { s.refresh with timer := .expired } }) ∧
  (∀ s, s.up → s.refresh.timer ≠ .running → exec .refreshPeriodExpiry s = .next s) ∧
  (∀ s, s.up → s.refresh.turn = none → exec .slotWrittenEvent s = .next s) ∧
  ∀ s t, s.up → s.refresh.turn = some t → s.TablesValid →
    let holds := s.refresh.holds.set t.slot.address.toNat (some t.code)
    let passed := wordOf (s.refresh.map.map fun c => if c.longDwell then 13 else 5).sum
    let counts := fun (v : VoiceIx) (i : Fin 3) =>
      t.slot.owner = .voice v ∧ t.slot.kind.pitchIndex = some i ∧ t.fresh = true ∧ t.source = .computed ∧
        (s.voice v).pitchWritten = false ∧ (s.voice v).state ≠ .tuning
    let fitted := fun (j : TuneJob) =>
      match s.refresh.map[t.index + 1]?, s.refresh.next with
      | none, some m =>
        match m.map.find? fun c =>
            c.kind.pitchIndex == some (pitchPlace j.target) && c.owner == .voice (voiceOf j.target) with
        | some c => { j with code := c.within j.code.toNat }
        | none => j
      | _, _ => j
    let arrives := fun (j : TuneJob) => s.tune.job = some j ∧ s.tune.engine = .wait ∧ t.source = .trial j.offer
    ∃ u, exec .slotWrittenEvent s = .next u ∧
      u.parts = s.parts ∧ u.patch = s.patch ∧ u.router = s.router ∧ u.panel = s.panel ∧ u.port = s.port ∧
      u.sweeper = s.sweeper ∧ u.sequence = s.sequence ∧ u.time = s.time ∧ u.refresh.holds = holds ∧
      (∀ j, arrives j →
        u.tune =
          { s.tune with
            engine := .settle
            job := some
              { fitted j with timer := if j.point = .full 0 ∨ j.point = .quick then 50 else 8 } } ∧
        Page.readWords u.page statusBase 32 = statusWords u.tune) ∧
      ((∀ j, ¬ arrives j) → u.tune = { s.tune with job := s.tune.job.map fitted }) ∧
      (∀ j, s.tune.job = some j → fitted j ≠ j → Page.readWords u.page statusBase 32 = statusWords u.tune) ∧
      sameOutside (fun k => inStatus k ∨ inWords 10 1 k ∨ ∃ v, inVoice v k) s.page u.page ∧
      (s.refresh.map[t.index + 1]? ≠ none ∨ s.refresh.next = none →
        ∀ v,
          ((∀ i, ¬ counts v i) → u.voice v = s.voice v) ∧
          ∀ i, counts v i →
            (∀ q : Fin 3, (u.voice v).written q = true ↔ (s.voice v).written q = true ∨ q = i) ∧
            ((u.voice v).pitchWritten = true ↔
              ∀ q : Fin 3, (∃ c ∈ s.refresh.map, c.kind.pitchIndex = some q ∧ c.owner = .voice v) →
                (u.voice v).written q = true) ∧
            u.voice v =
              { ({ s.voice v with
                   writtenA := (u.voice v).writtenA, writtenB := (u.voice v).writtenB
                   writtenF := (u.voice v).writtenF, pitchWritten := (u.voice v).pitchWritten } : Voice).regate
                  s.running with
                changeCount := (u.voice v).changeCount }) ∧
      (∀ c, s.refresh.map[t.index + 1]? = some c →
        u.header = s.header ∧
        u.refresh =
          { s.refresh with
            holds := holds, turn := some (begun s (t.index + 1) c), address := c.address
            lines := dwellLines (slotCode s c).1, dac := some (slotCode s c).1 }) ∧
      (s.refresh.map[t.index + 1]? = none →
        (s.refresh.next = none →
          u.header = { s.header with lastPass := passed } ∧ Page.readWord u.page 10 = passed ∧
          (s.refresh.timer ≠ .expired →
            u.refresh =
              { s.refresh with holds := holds, turn := none, address := 0#8, lines := rest, overrun := false }) ∧
          (s.refresh.timer = .expired → ∀ c cs, s.refresh.map = c :: cs →
            u.refresh =
              { s.refresh with
                holds := holds, timer := .running, turn := some (begun s 0 c), address := c.address
                lines := dwellLines (slotCode s c).1, dac := some (slotCode s c).1 })) ∧
        ∀ m, s.refresh.next = some m →
          u.refresh.map = m.map ∧ u.refresh.period = m.period ∧ u.refresh.next = none ∧
          u.refresh.overrun = false ∧
          (∀ v q, (u.voice v).written q = false) ∧
          (m.map = [] → u.refresh.timer = .stopped ∧ u.refresh.turn = none ∧ u.refresh.address = 0#8 ∧
            u.refresh.lines = rest ∧ u.header.lastPass = 0#16 ∧ Page.readWord u.page 10 = 0#16) ∧
          (∀ c cs, m.map = c :: cs → u.refresh.timer = .running ∧ u.header.lastPass = passed ∧
            u.refresh.turn = some (begun u 0 c) ∧ u.refresh.address = c.address ∧
            u.refresh.lines = dwellLines (slotCode u c).1 ∧ u.refresh.dac = some (slotCode u c).1))

/-- The code and its source at the start of a slot's turn: for a voice that is not TUNING the computed code of
R53 to R59, R62 and R63; for a TUNING voice the trial code, the park code or the tune code (R70 to R72). The
trial code is within the bounds of the slot (R71); where the offer was made under another map, that is the
model's choice (log entry 5). -/
def Obligations.SlotsCarryTheirCodes : Prop :=
  (∀ (s : State) (c : CvSlot) (p : PartIx), c.owner = .part p → c.low ≤ c.high →
    (slotCode s c).2 = .computed ∧
    (slotCode s c).1.toNat =
      c.low.toNat + (s.param p c.param).toNat * (c.high.toNat - c.low.toNat) / 65535) ∧
  (∀ (s : State) (c : CvSlot) (v : VoiceIx) (i : Fin 3), c.owner = .voice v → c.kind.pitchIndex = some i →
    c.low ≤ c.high →
    let x := s.voice v
    let r := s.target (targetOf v i)
    let o := r.drift.toInt
    let base : Int := (x.glide.toNat / 65536 : Nat)
    (x.state = .tuning →
      (∀ j, s.tune.job = some j → j.target = targetOf v i →
        slotCode s c = (c.within j.code.toNat, .trial j.offer)) ∧
      ((∀ j, s.tune.job = some j → j.target ≠ targetOf v i) →
        slotCode s c = (c.within (lookup r.table (15360 + o).toNat), .park))) ∧
    (x.state ≠ .tuning →
      ∃ n : Int, slotCode s c = (c.within (lookup r.table (max 0 (min 32767 n)).toNat), .computed) ∧
        (x.part = none → n = base + o) ∧
        ∀ p, x.part = some p →
          let bend := Int.tdiv ((s.part p).bend.toInt * decodeBendRange (s.param p pBendRange)) 32
          let detune := fun (q : ParamIx) => Int.fdiv (((s.param p q).toNat : Int) - 32768) 128
          let k : Int := x.unisonCount.toNat
          let spread : Int := ((s.param p pUnisonSpread).toNat / 256 : Nat)
          let uni : Int :=
            if k ≤ 1 then 0 else Int.fdiv ((2 * (x.unisonIndex.toNat : Int) - (k - 1)) * spread) (2 * (k - 1))
          (i = 0 → n = base + bend + detune pDetuneA + uni + o) ∧
          (i = 1 → n = base + 256 * decodeSemitones (s.param p pIntervalB) + bend + detune pDetuneB + uni + o) ∧
          (i = 2 → n = ((s.param p pCutoff).toNat / 2 : Nat) +
            Int.fdiv (((s.param p pKeytrack).toNat : Int) * (base + bend - 15360)) 65536 + o))) ∧
  ∀ (s : State) (c : CvSlot) (v : VoiceIx), c.owner = .voice v → c.kind = .level ∨ c.kind = .velocity →
    c.low ≤ c.high →
    let x := s.voice v
    let scaled := fun (a b : Nat) => c.low.toNat + a * (c.high.toNat - c.low.toNat) / b
    (∀ code, x.state = .tuning → c.tuneCode = some code → slotCode s c = (code, .tuneCode)) ∧
    (x.state ≠ .tuning ∨ c.tuneCode = none →
      (slotCode s c).2 = .computed ∧
      (x.part = none → (slotCode s c).1 = c.low) ∧
      ∀ p, x.part = some p →
        (c.kind = .level → (slotCode s c).1.toNat = scaled (s.param p c.param).toNat 65535) ∧
        (c.kind = .velocity →
          (x.state.active = false → (slotCode s c).1 = c.low) ∧
          ∀ q, x.state.active = true → x.note = some q →
            (slotCode s c).1.toNat =
              scaled (max q.velocity.val ((s.param p pVelocityFloor).toNat * 127 / 65535)) 127))

/-- The lookup of a pitch in a tune table: the segment and offset of R60, and the code of R61, the nearest with
halves rounded up, clamped to the slot's bounds, by the table that is installed; each point gives its own code
exactly, on a rising table the code does not decrease as the pitch rises, and before the clamp it can be negative
below note 12 and exceed 65535 above note 108. -/
def Obligations.TableLookup : Prop :=
  (∀ n : Nat, n ≤ 32767 →
    let rel : Int := (n : Int) - 3072
    (rel < 0 → segment n = (0, rel)) ∧
    (∀ k : Fin 8, 3072 * (k.val : Int) ≤ rel → rel < 3072 * ((k.val : Int) + 1) → segment n = (k, rel - 3072 * k.val)) ∧
    (24576 ≤ rel → segment n = (7, rel - 21504))) ∧
  (∀ (t : Vector Word 9) (n : Nat), n ≤ 32767 →
    let k := (segment n).1
    let lo : Int := (t[k.val]'(by omega)).toNat
    let d : Int := ((t[k.val + 1]'(by omega)).toNat : Int) - lo
    lookup t n = lo + Int.fdiv (d * (segment n).2 + 1536) 3072 ∧
    -3072 < 2 * (3072 * (lookup t n - lo) - d * (segment n).2) ∧
    2 * (3072 * (lookup t n - lo) - d * (segment n).2) ≤ 3072 ∧
    (t.toList.Pairwise (· < ·) → 1 ≤ d ∧ -65535 * 3072 ≤ d * (segment n).2 ∧ d * (segment n).2 ≤ 65535 * 8191)) ∧
  (∃ (t : Vector Word 9) (n : Nat), t.toList.Pairwise (· < ·) ∧ n < 3072 ∧ lookup t n < 0) ∧
  (∃ (t : Vector Word 9) (n : Nat), t.toList.Pairwise (· < ·) ∧ 27648 ≤ n ∧ n ≤ 32767 ∧ 65535 < lookup t n) ∧
  (∀ (t : Vector Word 9) (k : Fin 9), lookup t (3072 * (k.val + 1)) = (t[k]).toNat) ∧
  (∀ (t : Vector Word 9) m n, t.toList.Pairwise (· < ·) → m ≤ n → n ≤ 32767 → lookup t m ≤ lookup t n) ∧
  (∀ (t : Vector Word 9) (low high : Word) n, low ≤ high → let x := pitchCode t low high n
    low ≤ x ∧ x ≤ high ∧ (x.toNat : Int) = max (low.toNat : Int) (min (high.toNat : Int) (lookup t n))) ∧
  ∀ (s : State) (c : CvSlot) (v : VoiceIx) (i : Fin 3), c.owner = .voice v → c.kind.pitchIndex = some i →
    computedCode s c = pitchCode (s.target (targetOf v i)).table c.low c.high (targetPitch s v i)

/-- Stepped parameters: the canonical value of step q of n is ceil(q·65536/n), the lowest value of its band, and
decodes to q; the band holds more than one value; a STEP switch writes canonical values, and the defaults of the
stepped parameters that are not 0 are canonical (R114). -/
def Obligations.CanonicalValuesDecode : Prop :=
  (∀ n q, 2 ≤ n → n ≤ 49 → q < n →
    q * 65536 ≤ (canonical n q).toNat * n ∧ (canonical n q).toNat * n < q * 65536 + n ∧
    stepOf n (canonical n q) = q ∧ (∀ v : Word, stepOf n v = q → canonical n q ≤ v) ∧
    stepOf n (canonical n q + 1#16) = q) ∧
  (∀ n (v : Word), 2 ≤ n → n ≤ 49 → stepOf n v = v.toNat * n / 65536 ∧ stepOf n v < n) ∧
  (∀ (i : ParamIx) (v : Word), let n := (paramSteps i).getD 2
    stepValue i v = canonical n (if stepOf n v + 1 = n then 0 else stepOf n v + 1)) ∧
  (∀ (i : ParamIx) n, paramSteps i = some n → ∃ q, q < n ∧ paramDefault i = canonical n q) ∧
  ((List.range 2).map (canonical 2) = [0#16, 32768#16] ∧
    (List.range 4).map (canonical 4) = [0#16, 16384#16, 32768#16, 49152#16] ∧
    (List.range 5).map (canonical 5) = [0#16, 13108#16, 26215#16, 39322#16, 52429#16] ∧
    [canonical 25 2, canonical 25 12, canonical 25 24] = [5243#16, 31458#16, 62915#16] ∧
    [canonical 49 24, canonical 49 31, canonical 49 48] = [32100#16, 41462#16, 64199#16])

/-! ### The panel -/

/-- The pot pass timer starts a pass, or marks one that still runs (R149). A conversion fills the history of a
pot without one (R150), or takes its sample and accepts a change by the test of R151 (R152), which in RUN goes
to the router: a PARAM pot writes its parameter, a DETACHED one only where it attaches, and a BEND pot sets
the bend (R116, R118, R137, R169 to R171, R176); each lane cancelled counts for its RECALL, which completes with
its last context (R137, R139); the pass goes on with the next used pot, whose channel and ADC input are selected,
or ends (R149, R150, R153). The model's choices: a command that cannot arrive in the state changes nothing (log
entry 2); channel and input stay selected while nothing is converted (log entry 14); a pot that has become UNUSED
in its conversion is tested by its old descriptor, handed on by the new one and then emptied (log entry 16,
DEDUCED). -/
def Obligations.PotsConvertAndRoute : Prop :=
  let used (s : State) (i : Nat) : Option PotIx :=
    (List.finRange 128).find? fun p => decide (i ≤ p.val) && (s.potDesc p).kind != .unused
  let conversion (s : State) (o : Option PotIx) : Option Conversion :=
    o.map fun p => { pot := p, desc := s.potDesc p, emptyAfter := false }
  let converting (s : State) (o : Option PotIx) (x : Panel) : Panel :=
    { x with
      conversion := conversion s o
      potSelect := (o.map fun p => BitVec.ofNat 4 (p.val % 16)).getD x.potSelect
      adcInput := (o.map fun p => ⟨p.val / 16, by omega⟩).getD x.adcInput }
  (∀ s, s.up → s.panel.potTimer = .running → s.panel.conversion = none →
    exec .potPassExpiry s = .next
      { s with panel := converting s (used s 0) s.panel }) ∧
  (∀ s, s.up → s.panel.potTimer = .running → s.panel.conversion ≠ none →
    exec .potPassExpiry s = .next { s with panel := { s.panel with potTimer := .expired } }) ∧
  (∀ s, s.up → s.panel.potTimer ≠ .running → exec .potPassExpiry s = .next s) ∧
  (∀ s x, s.up → s.panel.conversion = none → exec (.potConversion x) s = .next s) ∧
  ∀ (s : State) (x : BitVec 12) c, s.up → s.panel.conversion = some c →
    (s.pot c.pot).history.length = (if (s.pot c.pot).valid then 4 else 0) → s.LanesRun → s.RequestsHeld →
    let i := c.pot
    let a := s.pot i
    let d := s.potDesc i
    let history := if a.valid then a.history.tail ++ [x] else List.replicate 4 x
    let m := (history.map fun y => y.toNat).sum / 4
    let v16 := wordOf (m * 65535 / 4095)
    let moved := a.valid = true ∧
      (2 * (c.desc.hysteresis.toNat : Int) ≤ |(m : Int) - a.accepted.toNat| ∨ (m = 0 ∧ a.accepted ≠ 0#12) ∨
        (m = 4095 ∧ a.accepted ≠ 4095#12))
    let writes := s.running = true ∧ moved ∧ d.kind = .param ∧
      (a.pickup = .attached ∨ (a.pickup = .detached ∧
        (distance v16 (reference s d) ≤ 256 * (d.window.toNat + 1) ∨
          (a.v16 ≤ reference s d ∧ reference s d ≤ v16) ∨ (v16 ≤ reference s d ∧ reference s d ≤ a.v16))))
    let bends := s.running = true ∧ moved ∧ d.kind = .bend
    let hit := fun (p : PartIx) (k : ParamIx) => decide writes && d.mask.getLsbD p.val && k == d.param
    let counted := fun (r : RecallReq) => { r with lanesCancelled := r.lanesCancelled + s.cancelled hit r }
    ∃ u, exec (.potConversion x) s = .next u ∧
      u.pot i =
        { history := if c.emptyAfter then [] else history
          prevV16 := if a.valid = false then v16 else if moved then a.v16 else a.prevV16
          valid := !c.emptyAfter
          accepted := if a.valid = false ∨ moved then BitVec.ofNat 12 m else a.accepted
          v16 := if a.valid = false ∨ moved then v16 else a.v16
          changeCount := if moved then a.changeCount + 1#8 else a.changeCount
          pickup := if writes then .attached else a.pickup } ∧
      (∀ k, k ≠ i → u.pot k = s.pot k) ∧
      (∀ p k, u.param p k = if hit p k then v16 else s.param p k) ∧
      (∀ p, u.context p = (s.context p).bind fun g =>
        if s.emptied hit p then none else some { g with lanes := g.lanes.filter fun l => !hit p l.param }) ∧
      u.patch.recalls = s.recallsLeft (s.emptied hit) counted ∧
      (∀ p : PartIx, writes → d.mask.getLsbD p.val = true → u.part p =
        { s.part p with
          marks := (s.part p).marks ||| bitMask 128 d.param.val
          progress := if (s.context p).isSome && s.emptied hit p then 0xFFFF#16 else (s.part p).progress
          changeCount := (u.part p).changeCount }) ∧
      (∀ p : PartIx, bends → d.mask.getLsbD p.val = true →
        let e : Int := (v16.toNat : Int) - 32768
        (u.part p).bend.toInt = (if |e| < 256 * ((d.window.toNat : Int) + 1) then 0 else Int.fdiv e 4) ∧
        u.part p = { s.part p with bend := (u.part p).bend, changeCount := (u.part p).changeCount }) ∧
      (∀ p : PartIx, ¬ (writes ∨ bends) ∨ d.mask.getLsbD p.val = false → u.part p = s.part p) ∧
      (let t :=
        ({ s with port := if moved then s.port.setCause causeControl else s.port } : State).afterCompletions
          (s.recallEnds (s.emptied hit) counted)
       u = { t with
             parts := u.parts, page := u.page, panel := u.panel
             patch := { s.patch with live := u.patch.live, contexts := u.patch.contexts, recalls := u.patch.recalls } } ∧
       sameOutside (fun k => inWords (potBase i) 4 k ∨ ∃ p : PartIx, d.mask.getLsbD p.val = true ∧ inPart p k)
         t.page u.page) ∧
      (∀ n, used s (i.val + 1) = some n → u.panel = { converting s (some n) s.panel with pots := u.panel.pots }) ∧
      (used s (i.val + 1) = none →
        (s.panel.nextPeriod = none → s.panel.potTimer ≠ .expired →
          u.panel = { s.panel with conversion := none, pots := u.panel.pots }) ∧
        (s.panel.nextPeriod = none → s.panel.potTimer = .expired →
          u.panel = { converting s (used s 0) s.panel with potTimer := .running, pots := u.panel.pots }) ∧
        ∀ q, s.panel.nextPeriod = some q →
          u.panel =
            { converting s (used s 0) s.panel with
              potPeriod := some q, nextPeriod := none, potTimer := .running, pots := u.panel.pots })

/-- The sampling of a switch row debounces each of its switches and counts its reported flips, with SWITCH
(R155 to R158); in SETUP nothing goes to the router; in RUN the flip of one switch writes by its kind (R116, R118,
R172, R173), and a RECALL whose last lane it cancels completes (R137, R139). The turn of an LED row lights the LEDs whose sources hold (R161, R162). -/
def Obligations.SwitchesFlipAndLedsLight : Prop :=
  (∀ (s : State) (cols : BitVec 8), s.up →
    let row := s.panel.switchRow
    let at' := fun (c : Fin 8) => switchAt row c
    let raw : Fin 8 → Bool := fun c => cols.getLsbD c.val
    let desc := fun (c : Fin 8) => s.router.switches[at' c]
    let flips := fun (c : Fin 8) =>
      (desc c).kind ≠ .unused ∧ raw c ≠ (s.switch (at' c)).debounced ∧
        s.panel.debounce ≤ (s.switch (at' c)).stable + 1
    ∃ u, exec (.switchRowSample cols) s = .next u ∧
      (∀ c,
        let x := s.switch (at' c)
        let y := u.switch (at' c)
        y.raw = raw c ∧
        ((desc c).kind = .unused → y = { x with raw := raw c }) ∧
        ((desc c).kind ≠ .unused → raw c = x.debounced → y = { x with raw := raw c, stable := 0 }) ∧
        ((desc c).kind ≠ .unused → raw c ≠ x.debounced → ¬ flips c →
          y = { x with raw := raw c, stable := x.stable + 1 }) ∧
        (flips c →
          y = { x with
                raw := raw c, stable := 0, debounced := raw c
                presses := if raw c = true ∧ (desc c).pressReport = true then x.presses + 1#8 else x.presses
                releases :=
                  if raw c = false ∧ (desc c).releaseReport = true then x.releases + 1#8 else x.releases })) ∧
      (∀ i : SwitchIx, i.val / 8 ≠ row.val → u.switch i = s.switch i) ∧
      u.panel = { s.panel with switches := u.panel.switches, switchRow := row + 1 } ∧
      (u.port.attn.getLsbD 3 = true ↔ s.port.attn.getLsbD 3 = true ∨
        ∃ c, flips c ∧ (if raw c then (desc c).pressReport else (desc c).releaseReport) = true) ∧
      u.tune = s.tune ∧ u.refresh = s.refresh ∧ u.router = s.router ∧ u.time = s.time ∧
      (s.running = false ∨ (∀ c, ¬ flips c) →
        u = { s with panel := u.panel, port := u.port, page := u.page } ∧
        sameOutside (fun k => inWords 0x2A0 0x80 k) s.page u.page) ∧
      ∀ c : Fin 8, s.running = true → flips c → (∀ b, flips b → b = c) →
        let d := desc c
        let n := (paramSteps d.param).getD 2
        (d.kind ≠ .sustain → u.voices = s.voices) ∧
        (∀ p : PartIx, d.mask.getLsbD p.val = true →
          (d.kind = .toggle → raw c = true →
            u.param p d.param = (if (s.param p d.param).toNat < 32768 then 65535#16 else 0#16)) ∧
          (d.kind = .momentary → u.param p d.param = (if raw c = true then 65535#16 else 0#16)) ∧
          (d.kind = .step → raw c = true → u.param p d.param =
            canonical n ((stepOf n (s.param p d.param) + 1) % n)) ∧
          (d.kind = .momentary ∨ ((d.kind = .toggle ∨ d.kind = .step) ∧ raw c = true) →
            (u.part p).marks = (s.part p).marks ||| bitMask 128 d.param.val ∧
            ∀ g, u.context p = some g → ∀ l ∈ g.lanes, l.param ≠ d.param) ∧
          (d.kind = .sustain → (u.part p).sustain = raw c ∧
            (raw c = true → u.voices = s.voices) ∧
            (raw c = false → (s.part p).sustain = true → ∀ v, (s.voice v).part = some p →
              (s.voice v).state = .held → (u.voice v).state = .releasing ∨ (u.voice v).state = .free))) ∧
        (∀ p k, d.mask.getLsbD p.val = false ∨ k ≠ d.param ∨ d.kind = .sustain ∨ d.kind = .report ∨
          (raw c = false ∧ d.kind ≠ .momentary) → u.param p k = s.param p k) ∧
        (d.kind = .momentary ∨ ((d.kind = .toggle ∨ d.kind = .step) ∧ raw c = true) → s.LanesRun → s.RequestsHeld →
          let hit := fun (p : PartIx) (k : ParamIx) => d.mask.getLsbD p.val && k == d.param
          let counted := fun (r : RecallReq) => { r with lanesCancelled := r.lanesCancelled + s.cancelled hit r }
          let reports := (if raw c then d.pressReport else d.releaseReport) = true
          let t :=
            ({ s with port := if reports then s.port.setCause causeSwitch else s.port } : State).afterCompletions
              (s.recallEnds (s.emptied hit) counted)
          u.patch.recalls = s.recallsLeft (s.emptied hit) counted ∧
          u = { t with
                parts := u.parts, page := u.page, panel := u.panel
                patch :=
                  { s.patch with live := u.patch.live, contexts := u.patch.contexts, recalls := u.patch.recalls } } ∧
          sameOutside (fun k => inWords 0x2A0 0x80 k ∨ ∃ p : PartIx, d.mask.getLsbD p.val = true ∧ inPart p k)
            t.page u.page)) ∧
  ∀ s, s.up → ∃ cols,
    exec .ledRowTurn s = .next
      { s with
        panel := { s.panel with ledRow := some s.panel.ledNext, ledColumns := cols, ledNext := s.panel.ledNext + 1 } } ∧
    ∀ c : Fin 8, cols.getLsbD c.val =
      match s.router.leds[ledAt s.panel.ledNext c] with
      | .unused => false
      | .image b => (Page.readWord s.page (14 + b.val / 16)).getLsbD (b.val % 16)
      | .gate v => (s.voice v).gateOut
      | .detached i => (s.pot i).pickup == .detached
      | .tuning v => (s.voice v).state == .tuning

end Statements
end

