-- ==== Sys2Proof/Laws/Page.lean ====
section
/-! SUPPORT. The laws of the common page: what a read sees after each write, and that every write keeps
the canonical form. The read laws hold of every list of cells, canonical or not. -/

namespace Sys2Proof.Machine

/-! ### Bytes and words -/

theorem joinBytes_toNat (h l : Byte) : (joinBytes h l).toNat = 256 * h.toNat + l.toNat := by
  have hl : l.toNat < 2 ^ 8 := l.isLt
  simp only [joinBytes, BitVec.toNat_append]
  rw [← Nat.shiftLeft_add_eq_or_of_lt hl, Nat.shiftLeft_eq]; omega

@[simp] theorem lowByte_joinBytes (h l : Byte) : lowByte (joinBytes h l) = l := by
  apply BitVec.eq_of_toNat_eq
  have := l.isLt
  simp only [lowByte, BitVec.toNat_setWidth, joinBytes_toNat]; omega

@[simp] theorem highByte_joinBytes (h l : Byte) : highByte (joinBytes h l) = h := by
  apply BitVec.eq_of_toNat_eq
  have := h.isLt; have := l.isLt
  simp only [highByte, BitVec.toNat_setWidth, BitVec.toNat_ushiftRight, joinBytes_toNat,
    Nat.shiftRight_eq_div_pow]
  omega

@[simp] theorem joinBytes_highByte_lowByte (w : Word) : joinBytes (highByte w) (lowByte w) = w := by
  apply BitVec.eq_of_toNat_eq
  have := w.isLt
  simp only [joinBytes_toNat, highByte, lowByte, BitVec.toNat_setWidth, BitVec.toNat_ushiftRight,
    Nat.shiftRight_eq_div_pow]
  omega

/-! ### One byte -/

theorem readByte_without (k j : Nat) (p : Page) :
    Page.readByte (Page.without k p) j = if j = k then Page.cleared else Page.readByte p j := by
  induction p with
  | nil => simp [Page.without, Page.readByte]
  | cons c rest ih =>
    simp only [Page.without, Page.readByte]
    split <;> rename_i h
    · rw [ih]; repeat' split
      all_goals first | rfl | omega
    · simp only [Page.readByte, ih]; repeat' split
      all_goals first | rfl | omega

/-- A byte write is read back at its offset and seen nowhere else. -/
theorem readByte_writeByte (k j : Nat) (v : Byte) (p : Page) :
    Page.readByte (Page.writeByte k v p) j = if j = k then v else Page.readByte p j := by
  induction p with
  | nil =>
    simp only [Page.writeByte]
    split <;> rename_i h <;> simp only [Page.readByte]
    · split
      · exact h.symm
      · rfl
    · repeat' split
      all_goals first | rfl | omega
  | cons c rest ih =>
    simp only [Page.writeByte]
    split <;> rename_i h
    · simp only [Page.readByte, ih]
      repeat' split
      all_goals first | rfl | omega
    · split <;> rename_i h2
      · rw [readByte_without]; subst h2; rfl
      · have := readByte_without k j (c :: rest)
        simp only [Page.readByte] at this ⊢
        rw [this]
        repeat' split
        all_goals first | rfl | omega

@[simp] theorem readByte_writeByte_self (k : Nat) (v : Byte) (p : Page) :
    Page.readByte (Page.writeByte k v p) k = v := by
  rw [readByte_writeByte]; simp

theorem readByte_writeByte_ne {k j : Nat} (h : j ≠ k) (v : Byte) (p : Page) :
    Page.readByte (Page.writeByte k v p) j = Page.readByte p j := by
  rw [readByte_writeByte]; simp [h]

/-! ### One word -/

theorem readByte_writeWord (p : Page) (w k : Nat) (v : Word) :
    Page.readByte (Page.writeWord p w v) k =
      if k = 2 * w + 1 then highByte v else if k = 2 * w then lowByte v else Page.readByte p k := by
  simp only [Page.writeWord, readByte_writeByte]

theorem readByte_writeWord_ne (p : Page) {w k : Nat} (v : Word) (h : k < 2 * w ∨ 2 * (w + 1) ≤ k) :
    Page.readByte (Page.writeWord p w v) k = Page.readByte p k := by
  rw [readByte_writeWord]; split
  · omega
  · split
    · omega
    · rfl

/-- A word write is read back at its word and seen at no other. -/
theorem readWord_writeWord (p : Page) (w u : Nat) (v : Word) :
    Page.readWord (Page.writeWord p w v) u = if u = w then v else Page.readWord p u := by
  by_cases h : u = w
  · subst h; simp [Page.readWord, readByte_writeWord]
  · simp only [Page.readWord, readByte_writeWord, h, if_false]
    repeat' split
    all_goals first | rfl | omega

@[simp] theorem readWord_writeWord_self (p : Page) (w : Nat) (v : Word) :
    Page.readWord (Page.writeWord p w v) w = v := by
  rw [readWord_writeWord]; simp

theorem readWord_writeWord_ne (p : Page) {w u : Nat} (v : Word) (h : u ≠ w) :
    Page.readWord (Page.writeWord p w v) u = Page.readWord p u := by
  rw [readWord_writeWord]; simp [h]

/-- A host write changes the enabled lanes of its word and no other byte (R181). -/
theorem readByte_writeLanes (p : Page) (w k : Nat) (lane0 lane1 : Bool) (v : Word) :
    Page.readByte (Page.writeLanes p w lane0 lane1 v) k =
      if k = 2 * w ∧ lane0 = true then lowByte v
      else if k = 2 * w + 1 ∧ lane1 = true then highByte v
      else Page.readByte p k := by
  cases lane0 <;> cases lane1 <;> simp [Page.writeLanes, readByte_writeByte]
  repeat' split
  all_goals first | rfl | omega

/-! ### Runs of words -/

theorem readByte_writeWords_ne (vs : List Word) (p : Page) {w k : Nat}
    (h : k < 2 * w ∨ 2 * (w + vs.length) ≤ k) :
    Page.readByte (Page.writeWords p w vs) k = Page.readByte p k := by
  induction vs generalizing p w with
  | nil => rfl
  | cons x xs ih =>
    simp only [Page.writeWords, List.length_cons] at h ⊢
    rw [ih _ (by omega), readByte_writeWord_ne _ _ (by omega)]

theorem readWord_writeWords_ne (vs : List Word) (p : Page) {w u : Nat}
    (h : u < w ∨ w + vs.length ≤ u) :
    Page.readWord (Page.writeWords p w vs) u = Page.readWord p u := by
  simp only [Page.readWord]
  rw [readByte_writeWords_ne _ _ (by omega), readByte_writeWords_ne _ _ (by omega)]

/-- Word `i` of a run of words is read back. -/
theorem readWord_writeWords (vs : List Word) (p : Page) (w i : Nat) (h : i < vs.length) :
    Page.readWord (Page.writeWords p w vs) (w + i) = vs[i] := by
  induction vs generalizing p w i with
  | nil => simp at h
  | cons x xs ih =>
    simp only [Page.writeWords]
    cases i with
    | zero => rw [readWord_writeWords_ne _ _ (by omega)]; simp
    | succ i =>
      have := ih (Page.writeWord p w x) (w + 1) i (by simpa using h)
      rw [show w + (i + 1) = w + 1 + i by omega, this]; simp

@[simp] theorem readWords_length (p : Page) (w n : Nat) : (Page.readWords p w n).length = n := by
  simp [Page.readWords]

theorem readWords_congr {p q : Page} {w n : Nat} (h : ∀ i < n, Page.readWord p (w + i) = Page.readWord q (w + i)) :
    Page.readWords p w n = Page.readWords q w n := by
  simp only [Page.readWords]
  apply List.map_congr_left
  intro i hi
  exact h i (by simpa using hi)

/-- A run of words is read back whole. -/
theorem readWords_writeWords (vs : List Word) (p : Page) (w : Nat) :
    Page.readWords (Page.writeWords p w vs) w vs.length = vs := by
  apply List.ext_getElem
  · simp
  · intro i h1 h2
    simp only [Page.readWords, List.getElem_map, List.getElem_range]
    exact readWord_writeWords vs p w i h2

theorem readWords_append (p : Page) (w m n : Nat) :
    Page.readWords p w (m + n) = Page.readWords p w m ++ Page.readWords p (w + m) n := by
  simp only [Page.readWords, List.range_add, List.map_append, List.map_map]
  congr 1
  exact List.map_congr_left fun i _ => by simp only [Function.comp, Nat.add_assoc]

theorem readWords_writeWords_ne (vs : List Word) (p : Page) {w u n : Nat} (h : u + n ≤ w ∨ w + vs.length ≤ u) :
    Page.readWords (Page.writeWords p w vs) u n = Page.readWords p u n :=
  readWords_congr fun _ _ => readWord_writeWords_ne _ _ (by omega)

/-- A run of words that writes to its words keep `P` under keeps it. -/
theorem writeWords_keeps {P : Page → Prop} (vs : List Word) {p : Page} {w : Nat}
    (h : ∀ q u x, w ≤ u → u < w + vs.length → P q → P (Page.writeWord q u x)) (hp : P p) :
    P (Page.writeWords p w vs) := by
  induction vs generalizing p w with
  | nil => exact hp
  | cons x xs ih =>
    simp only [List.length_cons] at h
    exact ih (fun q u y h1 h2 => h q u y (by omega) (by omega)) (h p w x (Nat.le_refl _) (by omega) hp)

/-! ### Records of which the changed fields are written -/

@[simp] theorem writeFields_nil (fs : List (Nat × Bool)) (old : List Word) (p : Page) (w : Nat) :
    Page.writeFields p w fs old [] = p := by
  induction fs generalizing p w old with
  | nil => rfl
  | cons f fs ih => simp [Page.writeFields, Page.writeWords, ih]

/-- All that a publication of changed fields can do to the page: it writes words of the record. -/
theorem writeFields_keeps {P : Page → Prop} (fs : List (Nat × Bool)) (old new : List Word) {p : Page} {w : Nat}
    (h : ∀ q u x, w ≤ u → u < w + new.length → P q → P (Page.writeWord q u x)) (hp : P p) :
    P (Page.writeFields p w fs old new) := by
  induction fs generalizing p w old new with
  | nil => exact hp
  | cons f fs ih =>
    have hw : P (Page.writeWords p w (new.take f.1)) :=
      writeWords_keeps _ (fun q u x h1 h2 => h q u x h1 (by rw [List.length_take] at h2; omega)) hp
    have hm : P (if f.2 = false ∧ old.take f.1 = new.take f.1 then p else Page.writeWords p w (new.take f.1)) := by
      split
      · exact hp
      · exact hw
    by_cases hn : f.1 ≤ new.length
    · exact ih _ _ (fun q u x h1 h2 => h q u x (by omega) (by rw [List.length_drop] at h2; omega)) hm
    · have hd : new.drop f.1 = [] := List.drop_eq_nil_of_le (by omega)
      rw [Page.writeFields, hd, writeFields_nil]
      exact hm

theorem readWord_writeFields_ne (fs : List (Nat × Bool)) (old new : List Word) (p : Page) {w u : Nat}
    (h : u < w ∨ w + new.length ≤ u) :
    Page.readWord (Page.writeFields p w fs old new) u = Page.readWord p u :=
  writeFields_keeps (P := fun q => Page.readWord q u = Page.readWord p u) _ _ _
    (fun q v x h1 h2 hq => by rw [readWord_writeWord_ne q x (by omega)]; exact hq) rfl

/-- A record that the page shows as it was, and of which the changed fields are written, is read back as it
now is. -/
theorem readWords_writeFields {fs : List (Nat × Bool)} {old new : List Word} {p : Page} {w : Nat}
    (hf : (fs.map (·.1)).sum = new.length) (hl : old.length = new.length)
    (h : Page.readWords p w old.length = old) :
    Page.readWords (Page.writeFields p w fs old new) w new.length = new := by
  induction fs generalizing p w old new with
  | nil =>
    obtain rfl : new = [] := List.eq_nil_of_length_eq_zero hf.symm
    rfl
  | cons f fs ih =>
    simp only [List.map_cons, List.sum_cons] at hf
    have hlen : (new.drop f.1).length = new.length - f.1 := List.length_drop
    have htl : (new.take f.1).length = f.1 := by rw [List.length_take]; omega
    have hsplit : old.length = f.1 + (old.drop f.1).length := by rw [List.length_drop]; omega
    have hall := h
    rw [hsplit, readWords_append] at hall
    have htake : Page.readWords p w f.1 = old.take f.1 := by
      have := congrArg (List.take f.1) hall
      rwa [List.take_left' (readWords_length p w f.1)] at this
    have hdrop : Page.readWords p (w + f.1) (old.drop f.1).length = old.drop f.1 := by
      have := congrArg (List.drop f.1) hall
      rwa [List.drop_left' (readWords_length p w f.1)] at this
    rw [show new.length = f.1 + (new.drop f.1).length by omega, readWords_append]
    conv => rhs; rw [← List.take_append_drop f.1 new]
    congr 1
    · rw [Page.writeFields, readWords_congr fun i hi => readWord_writeFields_ne _ _ _ _ (Or.inl (by omega))]
      split
      · rename_i hc
        rw [htake, hc.2]
      · have := readWords_writeWords (new.take f.1) p w
        rwa [htl] at this
    · refine ih (by omega) (by simp only [List.length_drop]; omega) ?_
      split
      · exact hdrop
      · rw [readWords_writeWords_ne _ _ (Or.inr (by omega))]
        exact hdrop

/-! ### The canonical form -/

theorem wf_tail {c : Host.Cell} {p : Page} (h : Page.wf (c :: p) = true) : Page.wf p = true := by
  cases p with
  | nil => rfl
  | cons d rest => simp only [Page.wf, Bool.and_eq_true] at h; exact h.2

theorem wf_head {c : Host.Cell} {p : Page} (h : Page.wf (c :: p) = true) : c.2 ≠ Page.cleared := by
  cases p with
  | nil => simpa [Page.wf] using h
  | cons d rest => simp only [Page.wf, Bool.and_eq_true] at h; simpa using h.1.1

/-- Every entry after the first of a canonical page has a greater address. -/
theorem wf_lt {c : Host.Cell} {p : Page} (h : Page.wf (c :: p) = true) : ∀ d ∈ p, c.1 < d.1 := by
  induction p generalizing c with
  | nil => simp
  | cons e rest ih =>
    simp only [Page.wf, Bool.and_eq_true, decide_eq_true_eq] at h
    intro d hd
    rcases List.mem_cons.1 hd with rfl | hd
    · exact h.1.2
    · exact Nat.lt_trans h.1.2 (ih h.2 d hd)

theorem wf_cons {c : Host.Cell} {p : Page} (hc : c.2 ≠ Page.cleared) (hp : Page.wf p = true)
    (h : ∀ d ∈ p, c.1 < d.1) : Page.wf (c :: p) = true := by
  cases p with
  | nil => simpa [Page.wf] using hc
  | cons d rest =>
    simp only [Page.wf, Bool.and_eq_true, decide_eq_true_eq]
    exact ⟨⟨by simpa using hc, h d (by simp)⟩, hp⟩

theorem mem_without {k : Nat} {p : Page} {d : Host.Cell} (h : d ∈ Page.without k p) : d ∈ p ∧ d.1 ≠ k := by
  induction p with
  | nil => simp [Page.without] at h
  | cons c rest ih =>
    simp only [Page.without] at h
    split at h
    · exact ⟨List.mem_cons_of_mem _ (ih h).1, (ih h).2⟩
    · rcases List.mem_cons.1 h with rfl | h
      · exact ⟨by simp, by assumption⟩
      · exact ⟨List.mem_cons_of_mem _ (ih h).1, (ih h).2⟩

theorem mem_writeByte {k : Nat} {v : Byte} {p : Page} {d : Host.Cell} (h : d ∈ Page.writeByte k v p) :
    d ∈ p ∨ d.1 = k := by
  induction p with
  | nil =>
    simp only [Page.writeByte] at h
    split at h
    · simp at h
    · simp only [List.mem_singleton] at h; exact .inr (by rw [h])
  | cons c rest ih =>
    simp only [Page.writeByte] at h
    split at h
    · rcases List.mem_cons.1 h with rfl | h
      · exact .inl (by simp)
      · exact (ih h).imp (List.mem_cons_of_mem _) id
    · split at h
      · exact .inl (mem_without h).1
      · rcases List.mem_cons.1 h with rfl | h
        · exact .inr rfl
        · exact .inl (mem_without h).1

theorem wf_without {p : Page} (k : Nat) (h : Page.wf p = true) : Page.wf (Page.without k p) = true := by
  induction p with
  | nil => rfl
  | cons c rest ih =>
    simp only [Page.without]
    split
    · exact ih (wf_tail h)
    · exact wf_cons (wf_head h) (ih (wf_tail h)) fun d hd => wf_lt h d (mem_without hd).1

/-- A byte write keeps the canonical form. -/
theorem wf_writeByte {p : Page} (k : Nat) (v : Byte) (h : Page.wf p = true) :
    Page.wf (Page.writeByte k v p) = true := by
  induction p with
  | nil =>
    simp only [Page.writeByte]
    split
    · rfl
    · rename_i hv; simpa [Page.wf] using hv
  | cons c rest ih =>
    simp only [Page.writeByte]
    split
    · rename_i hk
      refine wf_cons (wf_head h) (ih (wf_tail h)) fun d hd => ?_
      rcases mem_writeByte hd with hd | hd
      · exact wf_lt h d hd
      · omega
    · rename_i hk
      split
      · exact wf_without k h
      · rename_i hv
        refine wf_cons hv (wf_without k h) fun d hd => ?_
        have hm := mem_without hd
        rcases List.mem_cons.1 hm.1 with rfl | hr
        · have := hm.2; simp only; omega
        · have := wf_lt h d hr; simp only; omega

theorem wf_writeWord {p : Page} (w : Nat) (v : Word) (h : Page.wf p = true) :
    Page.wf (Page.writeWord p w v) = true := wf_writeByte _ _ (wf_writeByte _ _ h)

theorem wf_writeLanes {p : Page} (w : Nat) (a b : Bool) (v : Word) (h : Page.wf p = true) :
    Page.wf (Page.writeLanes p w a b v) = true := by
  cases a <;> cases b <;> simp only [Page.writeLanes, if_true, if_false, Bool.false_eq_true] <;>
    first
    | exact h
    | exact wf_writeByte _ _ h
    | exact wf_writeByte _ _ (wf_writeByte _ _ h)

theorem wf_writeWords {p : Page} (w : Nat) (vs : List Word) (h : Page.wf p = true) :
    Page.wf (Page.writeWords p w vs) = true := by
  induction vs generalizing p w with
  | nil => exact h
  | cons x xs ih => exact ih _ (wf_writeWord _ _ h)

theorem wf_writeFields {p : Page} (w : Nat) (fs : List (Nat × Bool)) (old new : List Word)
    (h : Page.wf p = true) : Page.wf (Page.writeFields p w fs old new) = true :=
  writeFields_keeps (P := fun q => Page.wf q = true) fs old new (fun _ u x _ _ hq => wf_writeWord u x hq) h

theorem wf_writeVoice {p : Page} (v : VoiceIx) (x : Voice) (h : Page.wf p = true) :
    Page.wf (Page.writeVoice p v x) = true := wf_writeWords _ _ h

theorem wf_writePart {p : Page} (i : PartIx) (x : Part) (h : Page.wf p = true) :
    Page.wf (Page.writePart p i x) = true :=
  wf_writeWord _ _ (wf_writeWords _ _ (wf_writeWords _ _ h))

theorem wf_writeSwitch {p : Page} (i : SwitchIx) (x : Switch) (h : Page.wf p = true) :
    Page.wf (Page.writeSwitch p i x) = true := wf_writeWords _ _ h

theorem wf_writePot {p : Page} (i : PotIx) (x : Pot) (h : Page.wf p = true) :
    Page.wf (Page.writePot p i x) = true := wf_writeWord _ _ (wf_writeWord _ _ (wf_writeWords _ _ h))

theorem wf_writeTune {p : Page} (t : TargetIx) (x : TuneRec) (h : Page.wf p = true) :
    Page.wf (Page.writeTune p t x) = true := wf_writeWords _ _ h

theorem wf_writeStatus {p : Page} (t : Tune) (h : Page.wf p = true) :
    Page.wf (Page.writeStatus p t) = true := wf_writeWords _ _ h

theorem wf_writeSetupError {p : Page} (x : Header) (h : Page.wf p = true) :
    Page.wf (Page.writeSetupError p x) = true := wf_writeWords _ _ h

theorem wf_writeTime {p : Page} (t : Long) (h : Page.wf p = true) :
    Page.wf (Page.writeTime p t) = true := wf_writeWords _ _ h

theorem wf_writeHeader {p : Page} (r : RunState) (x : Header) (taken : Word) (t : Long)
    (h : Page.wf p = true) : Page.wf (Page.writeHeader p r x taken t) = true :=
  wf_writeWords _ _ (wf_writeWords _ _ (wf_writeWords _ _ h))

/-- A fold of writes that each keep the canonical form keeps it. -/
theorem wf_foldl {α : Type} (f : Page → α → Page) (hf : ∀ p a, Page.wf p = true → Page.wf (f p a) = true)
    (l : List α) {p : Page} (h : Page.wf p = true) : Page.wf (l.foldl f p) = true := by
  induction l generalizing p with
  | nil => exact h
  | cons a l ih => exact ih (hf p a h)

theorem wf_publishAll {p : Page} (voices : Vector Voice 16) (parts : Vector Part 4) (panel : Panel) (tune : Tune)
    (h : Page.wf p = true) : Page.wf (Page.publishAll p voices parts panel tune) = true := by
  simp only [Page.publishAll]
  refine wf_foldl _ (fun q t hq => wf_writeTune t _ hq) _ ?_
  refine wf_foldl _ (fun q t hq => wf_writePot t _ hq) _ ?_
  refine wf_writeStatus _ ?_
  refine wf_foldl _ (fun q t hq => wf_writeSwitch t _ hq) _ ?_
  refine wf_foldl _ (fun q t hq => wf_writePart t _ hq) _ ?_
  exact wf_foldl _ (fun q t hq => wf_writeVoice t _ hq) _ h

/-! ### The lengths of the records -/

@[simp] theorem voiceWords_length (x : Voice) : (voiceWords x).length = 16 := rfl
@[simp] theorem partWords_length (x : Part) : (partWords x).length = 23 := by simp [partWords, markWords]
@[simp] theorem switchWords_length (x : Switch) : (switchWords x).length = 2 := rfl
@[simp] theorem potWords_length (x : Pot) : (potWords x).length = 3 := rfl
@[simp] theorem tuneWords_length (x : TuneRec) : (tuneWords x).length = 12 := by simp [tuneWords]
@[simp] theorem statusWords_length (t : Tune) : (statusWords t).length = 32 := by simp [statusWords]
@[simp] theorem partZeros_length : partZeros.length = 8 := rfl

end Sys2Proof.Machine
end

