-- ==== Sys2Proof/Laws/State.lean ====
section
/-! SUPPORT. What each elementary update of the state leaves in each field, and what a voice or part reads
after it. -/

namespace Sys2Proof.Machine

/-! ### setVoice -/

@[simp] theorem setVoice_pending (s : State) (v : VoiceIx) (x : Voice) : (s.setVoice v x).pending = s.pending := rfl
@[simp] theorem setVoice_page (s : State) (v : VoiceIx) (x : Voice) : (s.setVoice v x).page = s.page := rfl
@[simp] theorem setVoice_time (s : State) (v : VoiceIx) (x : Voice) : (s.setVoice v x).time = s.time := rfl
@[simp] theorem setVoice_port (s : State) (v : VoiceIx) (x : Voice) : (s.setVoice v x).port = s.port := rfl
@[simp] theorem setVoice_header (s : State) (v : VoiceIx) (x : Voice) : (s.setVoice v x).header = s.header := rfl
@[simp] theorem setVoice_sweeper (s : State) (v : VoiceIx) (x : Voice) : (s.setVoice v x).sweeper = s.sweeper := rfl
@[simp] theorem setVoice_voices (s : State) (v : VoiceIx) (x : Voice) : (s.setVoice v x).voices = s.voices.set v x := rfl
@[simp] theorem setVoice_parts (s : State) (v : VoiceIx) (x : Voice) : (s.setVoice v x).parts = s.parts := rfl
@[simp] theorem setVoice_sequence (s : State) (v : VoiceIx) (x : Voice) : (s.setVoice v x).sequence = s.sequence := rfl
@[simp] theorem setVoice_refresh (s : State) (v : VoiceIx) (x : Voice) : (s.setVoice v x).refresh = s.refresh := rfl
@[simp] theorem setVoice_tune (s : State) (v : VoiceIx) (x : Voice) : (s.setVoice v x).tune = s.tune := rfl
@[simp] theorem setVoice_patch (s : State) (v : VoiceIx) (x : Voice) : (s.setVoice v x).patch = s.patch := rfl
@[simp] theorem setVoice_router (s : State) (v : VoiceIx) (x : Voice) : (s.setVoice v x).router = s.router := rfl
@[simp] theorem setVoice_panel (s : State) (v : VoiceIx) (x : Voice) : (s.setVoice v x).panel = s.panel := rfl

/-! ### modVoice -/

@[simp] theorem modVoice_pending (s : State) (v : VoiceIx) (f : Voice → Voice) : (s.modVoice v f).pending = s.pending := rfl
@[simp] theorem modVoice_page (s : State) (v : VoiceIx) (f : Voice → Voice) : (s.modVoice v f).page = s.page := rfl
@[simp] theorem modVoice_time (s : State) (v : VoiceIx) (f : Voice → Voice) : (s.modVoice v f).time = s.time := rfl
@[simp] theorem modVoice_port (s : State) (v : VoiceIx) (f : Voice → Voice) : (s.modVoice v f).port = s.port := rfl
@[simp] theorem modVoice_header (s : State) (v : VoiceIx) (f : Voice → Voice) : (s.modVoice v f).header = s.header := rfl
@[simp] theorem modVoice_sweeper (s : State) (v : VoiceIx) (f : Voice → Voice) : (s.modVoice v f).sweeper = s.sweeper := rfl
@[simp] theorem modVoice_voices (s : State) (v : VoiceIx) (f : Voice → Voice) : (s.modVoice v f).voices = s.voices.set v (f (s.voice v)) := rfl
@[simp] theorem modVoice_parts (s : State) (v : VoiceIx) (f : Voice → Voice) : (s.modVoice v f).parts = s.parts := rfl
@[simp] theorem modVoice_sequence (s : State) (v : VoiceIx) (f : Voice → Voice) : (s.modVoice v f).sequence = s.sequence := rfl
@[simp] theorem modVoice_refresh (s : State) (v : VoiceIx) (f : Voice → Voice) : (s.modVoice v f).refresh = s.refresh := rfl
@[simp] theorem modVoice_tune (s : State) (v : VoiceIx) (f : Voice → Voice) : (s.modVoice v f).tune = s.tune := rfl
@[simp] theorem modVoice_patch (s : State) (v : VoiceIx) (f : Voice → Voice) : (s.modVoice v f).patch = s.patch := rfl
@[simp] theorem modVoice_router (s : State) (v : VoiceIx) (f : Voice → Voice) : (s.modVoice v f).router = s.router := rfl
@[simp] theorem modVoice_panel (s : State) (v : VoiceIx) (f : Voice → Voice) : (s.modVoice v f).panel = s.panel := rfl

/-! ### setPart -/

@[simp] theorem setPart_pending (s : State) (p : PartIx) (x : Part) : (s.setPart p x).pending = s.pending := rfl
@[simp] theorem setPart_page (s : State) (p : PartIx) (x : Part) : (s.setPart p x).page = s.page := rfl
@[simp] theorem setPart_time (s : State) (p : PartIx) (x : Part) : (s.setPart p x).time = s.time := rfl
@[simp] theorem setPart_port (s : State) (p : PartIx) (x : Part) : (s.setPart p x).port = s.port := rfl
@[simp] theorem setPart_header (s : State) (p : PartIx) (x : Part) : (s.setPart p x).header = s.header := rfl
@[simp] theorem setPart_sweeper (s : State) (p : PartIx) (x : Part) : (s.setPart p x).sweeper = s.sweeper := rfl
@[simp] theorem setPart_voices (s : State) (p : PartIx) (x : Part) : (s.setPart p x).voices = s.voices := rfl
@[simp] theorem setPart_parts (s : State) (p : PartIx) (x : Part) : (s.setPart p x).parts = s.parts.set p x := rfl
@[simp] theorem setPart_sequence (s : State) (p : PartIx) (x : Part) : (s.setPart p x).sequence = s.sequence := rfl
@[simp] theorem setPart_refresh (s : State) (p : PartIx) (x : Part) : (s.setPart p x).refresh = s.refresh := rfl
@[simp] theorem setPart_tune (s : State) (p : PartIx) (x : Part) : (s.setPart p x).tune = s.tune := rfl
@[simp] theorem setPart_patch (s : State) (p : PartIx) (x : Part) : (s.setPart p x).patch = s.patch := rfl
@[simp] theorem setPart_router (s : State) (p : PartIx) (x : Part) : (s.setPart p x).router = s.router := rfl
@[simp] theorem setPart_panel (s : State) (p : PartIx) (x : Part) : (s.setPart p x).panel = s.panel := rfl

/-! ### modPart -/

@[simp] theorem modPart_pending (s : State) (p : PartIx) (f : Part → Part) : (s.modPart p f).pending = s.pending := rfl
@[simp] theorem modPart_page (s : State) (p : PartIx) (f : Part → Part) : (s.modPart p f).page = s.page := rfl
@[simp] theorem modPart_time (s : State) (p : PartIx) (f : Part → Part) : (s.modPart p f).time = s.time := rfl
@[simp] theorem modPart_port (s : State) (p : PartIx) (f : Part → Part) : (s.modPart p f).port = s.port := rfl
@[simp] theorem modPart_header (s : State) (p : PartIx) (f : Part → Part) : (s.modPart p f).header = s.header := rfl
@[simp] theorem modPart_sweeper (s : State) (p : PartIx) (f : Part → Part) : (s.modPart p f).sweeper = s.sweeper := rfl
@[simp] theorem modPart_voices (s : State) (p : PartIx) (f : Part → Part) : (s.modPart p f).voices = s.voices := rfl
@[simp] theorem modPart_parts (s : State) (p : PartIx) (f : Part → Part) : (s.modPart p f).parts = s.parts.set p (f (s.part p)) := rfl
@[simp] theorem modPart_sequence (s : State) (p : PartIx) (f : Part → Part) : (s.modPart p f).sequence = s.sequence := rfl
@[simp] theorem modPart_refresh (s : State) (p : PartIx) (f : Part → Part) : (s.modPart p f).refresh = s.refresh := rfl
@[simp] theorem modPart_tune (s : State) (p : PartIx) (f : Part → Part) : (s.modPart p f).tune = s.tune := rfl
@[simp] theorem modPart_patch (s : State) (p : PartIx) (f : Part → Part) : (s.modPart p f).patch = s.patch := rfl
@[simp] theorem modPart_router (s : State) (p : PartIx) (f : Part → Part) : (s.modPart p f).router = s.router := rfl
@[simp] theorem modPart_panel (s : State) (p : PartIx) (f : Part → Part) : (s.modPart p f).panel = s.panel := rfl

/-! ### writeWord -/

@[simp] theorem writeWord_pending (s : State) (w : Nat) (v : Word) : (s.writeWord w v).pending = s.pending := rfl
@[simp] theorem writeWord_page (s : State) (w : Nat) (v : Word) : (s.writeWord w v).page = Page.writeWord s.page w v := rfl
@[simp] theorem writeWord_time (s : State) (w : Nat) (v : Word) : (s.writeWord w v).time = s.time := rfl
@[simp] theorem writeWord_port (s : State) (w : Nat) (v : Word) : (s.writeWord w v).port = s.port := rfl
@[simp] theorem writeWord_header (s : State) (w : Nat) (v : Word) : (s.writeWord w v).header = s.header := rfl
@[simp] theorem writeWord_sweeper (s : State) (w : Nat) (v : Word) : (s.writeWord w v).sweeper = s.sweeper := rfl
@[simp] theorem writeWord_voices (s : State) (w : Nat) (v : Word) : (s.writeWord w v).voices = s.voices := rfl
@[simp] theorem writeWord_parts (s : State) (w : Nat) (v : Word) : (s.writeWord w v).parts = s.parts := rfl
@[simp] theorem writeWord_sequence (s : State) (w : Nat) (v : Word) : (s.writeWord w v).sequence = s.sequence := rfl
@[simp] theorem writeWord_refresh (s : State) (w : Nat) (v : Word) : (s.writeWord w v).refresh = s.refresh := rfl
@[simp] theorem writeWord_tune (s : State) (w : Nat) (v : Word) : (s.writeWord w v).tune = s.tune := rfl
@[simp] theorem writeWord_patch (s : State) (w : Nat) (v : Word) : (s.writeWord w v).patch = s.patch := rfl
@[simp] theorem writeWord_router (s : State) (w : Nat) (v : Word) : (s.writeWord w v).router = s.router := rfl
@[simp] theorem writeWord_panel (s : State) (w : Nat) (v : Word) : (s.writeWord w v).panel = s.panel := rfl

/-! ### writeWords -/

@[simp] theorem writeWords_pending (s : State) (w : Nat) (vs : List Word) : (s.writeWords w vs).pending = s.pending := rfl
@[simp] theorem writeWords_page (s : State) (w : Nat) (vs : List Word) : (s.writeWords w vs).page = Page.writeWords s.page w vs := rfl
@[simp] theorem writeWords_time (s : State) (w : Nat) (vs : List Word) : (s.writeWords w vs).time = s.time := rfl
@[simp] theorem writeWords_port (s : State) (w : Nat) (vs : List Word) : (s.writeWords w vs).port = s.port := rfl
@[simp] theorem writeWords_header (s : State) (w : Nat) (vs : List Word) : (s.writeWords w vs).header = s.header := rfl
@[simp] theorem writeWords_sweeper (s : State) (w : Nat) (vs : List Word) : (s.writeWords w vs).sweeper = s.sweeper := rfl
@[simp] theorem writeWords_voices (s : State) (w : Nat) (vs : List Word) : (s.writeWords w vs).voices = s.voices := rfl
@[simp] theorem writeWords_parts (s : State) (w : Nat) (vs : List Word) : (s.writeWords w vs).parts = s.parts := rfl
@[simp] theorem writeWords_sequence (s : State) (w : Nat) (vs : List Word) : (s.writeWords w vs).sequence = s.sequence := rfl
@[simp] theorem writeWords_refresh (s : State) (w : Nat) (vs : List Word) : (s.writeWords w vs).refresh = s.refresh := rfl
@[simp] theorem writeWords_tune (s : State) (w : Nat) (vs : List Word) : (s.writeWords w vs).tune = s.tune := rfl
@[simp] theorem writeWords_patch (s : State) (w : Nat) (vs : List Word) : (s.writeWords w vs).patch = s.patch := rfl
@[simp] theorem writeWords_router (s : State) (w : Nat) (vs : List Word) : (s.writeWords w vs).router = s.router := rfl
@[simp] theorem writeWords_panel (s : State) (w : Nat) (vs : List Word) : (s.writeWords w vs).panel = s.panel := rfl

/-! ### setRun -/

@[simp] theorem setRun_pending (s : State) (r : RunState) : (s.setRun r).pending = s.pending := rfl
@[simp] theorem setRun_page (s : State) (r : RunState) : (s.setRun r).page = Page.writeWord s.page (headerBase + 1) r.code := rfl
@[simp] theorem setRun_time (s : State) (r : RunState) : (s.setRun r).time = s.time := rfl
@[simp] theorem setRun_port (s : State) (r : RunState) : (s.setRun r).port = { s.port with run := r } := rfl
@[simp] theorem setRun_header (s : State) (r : RunState) : (s.setRun r).header = s.header := rfl
@[simp] theorem setRun_sweeper (s : State) (r : RunState) : (s.setRun r).sweeper = s.sweeper := rfl
@[simp] theorem setRun_voices (s : State) (r : RunState) : (s.setRun r).voices = s.voices := rfl
@[simp] theorem setRun_parts (s : State) (r : RunState) : (s.setRun r).parts = s.parts := rfl
@[simp] theorem setRun_sequence (s : State) (r : RunState) : (s.setRun r).sequence = s.sequence := rfl
@[simp] theorem setRun_refresh (s : State) (r : RunState) : (s.setRun r).refresh = s.refresh := rfl
@[simp] theorem setRun_tune (s : State) (r : RunState) : (s.setRun r).tune = s.tune := rfl
@[simp] theorem setRun_patch (s : State) (r : RunState) : (s.setRun r).patch = s.patch := rfl
@[simp] theorem setRun_router (s : State) (r : RunState) : (s.setRun r).router = s.router := rfl
@[simp] theorem setRun_panel (s : State) (r : RunState) : (s.setRun r).panel = s.panel := rfl

/-! ### setCause -/

@[simp] theorem setCause_pending (c : Byte) (s : State) : (setCause c s).pending = s.pending := rfl
@[simp] theorem setCause_page (c : Byte) (s : State) : (setCause c s).page = s.page := rfl
@[simp] theorem setCause_time (c : Byte) (s : State) : (setCause c s).time = s.time := rfl
@[simp] theorem setCause_port (c : Byte) (s : State) : (setCause c s).port = s.port.setCause c := rfl
@[simp] theorem setCause_header (c : Byte) (s : State) : (setCause c s).header = s.header := rfl
@[simp] theorem setCause_sweeper (c : Byte) (s : State) : (setCause c s).sweeper = s.sweeper := rfl
@[simp] theorem setCause_voices (c : Byte) (s : State) : (setCause c s).voices = s.voices := rfl
@[simp] theorem setCause_parts (c : Byte) (s : State) : (setCause c s).parts = s.parts := rfl
@[simp] theorem setCause_sequence (c : Byte) (s : State) : (setCause c s).sequence = s.sequence := rfl
@[simp] theorem setCause_refresh (c : Byte) (s : State) : (setCause c s).refresh = s.refresh := rfl
@[simp] theorem setCause_tune (c : Byte) (s : State) : (setCause c s).tune = s.tune := rfl
@[simp] theorem setCause_patch (c : Byte) (s : State) : (setCause c s).patch = s.patch := rfl
@[simp] theorem setCause_router (c : Byte) (s : State) : (setCause c s).router = s.router := rfl
@[simp] theorem setCause_panel (c : Byte) (s : State) : (setCause c s).panel = s.panel := rfl

/-! ### Voices and parts read back -/

@[simp] theorem voice_setVoice_self (s : State) (v : VoiceIx) (x : Voice) : (s.setVoice v x).voice v = x := by
  simp [State.voice]

theorem voice_setVoice_ne (s : State) {v w : VoiceIx} (h : w ≠ v) (x : Voice) :
    (s.setVoice v x).voice w = s.voice w := by
  have : v.val ≠ w.val := fun e => h (Fin.ext e.symm)
  simp [State.voice, this]

/-- What voice `w` reads after voice `v` was set. -/
theorem voice_setVoice (s : State) (v w : VoiceIx) (x : Voice) :
    (s.setVoice v x).voice w = if w = v then x else s.voice w := by
  split <;> rename_i h
  · subst h; simp
  · exact voice_setVoice_ne s h x

@[simp] theorem voice_modVoice_self (s : State) (v : VoiceIx) (f : Voice → Voice) :
    (s.modVoice v f).voice v = f (s.voice v) := voice_setVoice_self ..

theorem voice_modVoice_ne (s : State) {v w : VoiceIx} (h : w ≠ v) (f : Voice → Voice) :
    (s.modVoice v f).voice w = s.voice w := voice_setVoice_ne s h _

@[simp] theorem part_setPart_self (s : State) (p : PartIx) (x : Part) : (s.setPart p x).part p = x := by
  simp [State.part]

theorem part_setPart_ne (s : State) {p q : PartIx} (h : q ≠ p) (x : Part) :
    (s.setPart p x).part q = s.part q := by
  have : p.val ≠ q.val := fun e => h (Fin.ext e.symm)
  simp [State.part, this]

/-- What part `q` reads after part `p` was set. -/
theorem part_setPart (s : State) (p q : PartIx) (x : Part) :
    (s.setPart p x).part q = if q = p then x else s.part q := by
  split <;> rename_i h
  · subst h; simp
  · exact part_setPart_ne s h x

@[simp] theorem part_modPart_self (s : State) (p : PartIx) (f : Part → Part) :
    (s.modPart p f).part p = f (s.part p) := part_setPart_self ..

theorem part_modPart_ne (s : State) {p q : PartIx} (h : q ≠ p) (f : Part → Part) :
    (s.modPart p f).part q = s.part q := part_setPart_ne s h _

@[simp] theorem part_setVoice (s : State) (v : VoiceIx) (x : Voice) (p : PartIx) :
    (s.setVoice v x).part p = s.part p := rfl

@[simp] theorem voice_setPart (s : State) (p : PartIx) (x : Part) (v : VoiceIx) :
    (s.setPart p x).voice v = s.voice v := rfl

@[simp] theorem voice_modPart (s : State) (p : PartIx) (f : Part → Part) (v : VoiceIx) :
    (s.modPart p f).voice v = s.voice v := rfl

@[simp] theorem part_modVoice (s : State) (v : VoiceIx) (f : Voice → Voice) (p : PartIx) :
    (s.modVoice v f).part p = s.part p := rfl

@[simp] theorem voice_setCause (c : Byte) (s : State) (v : VoiceIx) : (setCause c s).voice v = s.voice v := rfl
@[simp] theorem part_setCause (c : Byte) (s : State) (p : PartIx) : (setCause c s).part p = s.part p := rfl

/-- Two states that agree on every voice hold the same voice table. -/
theorem voices_ext {s t : State} (h : ∀ v, s.voice v = t.voice v) : s.voices = t.voices := by
  apply Vector.ext
  intro i hi
  exact h ⟨i, hi⟩

/-- Two states that agree on every part hold the same part records. -/
theorem parts_ext {s t : State} (h : ∀ p, s.part p = t.part p) : s.parts = t.parts := by
  apply Vector.ext
  intro i hi
  exact h ⟨i, hi⟩

/-! ### Attention causes and the run state -/

@[simp] theorem Port.setCause_run (c : Byte) (p : Port) : (p.setCause c).run = p.run := rfl
@[simp] theorem Port.setCause_loaded (c : Byte) (p : Port) : (p.setCause c).loaded = p.loaded := rfl
@[simp] theorem Port.setCause_attn (c : Byte) (p : Port) : (p.setCause c).attn = p.attn ||| c := rfl
@[simp] theorem Port.setCause_attnEnable (c : Byte) (p : Port) : (p.setCause c).attnEnable = p.attnEnable := rfl
@[simp] theorem Port.setCause_attnPulse (c : Byte) (p : Port) : (p.setCause c).attnPulse = p.attnPulse := rfl

@[simp] theorem setCause_running (c : Byte) (s : State) : (setCause c s).running = s.running := rfl
@[simp] theorem setVoice_running (s : State) (v : VoiceIx) (x : Voice) : (s.setVoice v x).running = s.running := rfl
@[simp] theorem modVoice_running (s : State) (v : VoiceIx) (f : Voice → Voice) :
    (s.modVoice v f).running = s.running := rfl
@[simp] theorem setPart_running (s : State) (p : PartIx) (x : Part) : (s.setPart p x).running = s.running := rfl
@[simp] theorem modPart_running (s : State) (p : PartIx) (f : Part → Part) :
    (s.modPart p f).running = s.running := rfl

end Sys2Proof.Machine
end

