-- ==== Sys2Proof/Laws/Ops.lean ====
section
/-! SUPPORT. For each operation of Sys2Proof/Machine/Ops.lean, what it can do: what it leaves in the record
it changes, which projections of the state it keeps (`_keeps`), and which page words it writes (`_page`:
a property of pages that writes to those words keep is kept). -/

namespace Sys2Proof.Machine

/-! ### Properties of pages that writes to some words keep -/

/-- Writing any word that `A` picks out keeps the property `P` of pages. -/
def WordsKeep (A : Nat → Prop) (P : Page → Prop) : Prop :=
  ∀ p w x, A w → P p → P (Page.writeWord p w x)

theorem WordsKeep.mono {A B : Nat → Prop} {P : Page → Prop} (h : WordsKeep B P) (hab : ∀ w, A w → B w) :
    WordsKeep A P := fun p w x ha hp => h p w x (hab w ha) hp

theorem WordsKeep.writeWords {A : Nat → Prop} {P : Page → Prop} (h : WordsKeep A P) (vs : List Word)
    {p : Page} {w : Nat} (hA : ∀ i < vs.length, A (w + i)) (hp : P p) : P (Page.writeWords p w vs) :=
  writeWords_keeps vs (fun q u x h1 h2 hq => h q u x (by
    have := hA (u - w) (by omega)
    rwa [Nat.add_sub_cancel' h1] at this) hq) hp

theorem WordsKeep.writeFields {A : Nat → Prop} {P : Page → Prop} (h : WordsKeep A P) (fs : List (Nat × Bool))
    (old new : List Word) {p : Page} {w : Nat} (hA : ∀ i < new.length, A (w + i)) (hp : P p) :
    P (Page.writeFields p w fs old new) :=
  writeFields_keeps fs old new (fun q u x h1 h2 hq => h q u x (by
    have := hA (u - w) (by omega)
    rwa [Nat.add_sub_cancel' h1] at this) hq) hp

/-- Every write keeps the canonical form. -/
theorem wordsKeep_wf (A : Nat → Prop) : WordsKeep A (fun p => Page.wf p = true) :=
  fun _ w x _ hp => wf_writeWord w x hp

/-- A byte outside the words that are written keeps its value. -/
theorem wordsKeep_readByte {A : Nat → Prop} {k : Nat} (hk : ∀ w, A w → k ≠ 2 * w ∧ k ≠ 2 * w + 1) (b : Byte) :
    WordsKeep A (fun p => Page.readByte p k = b) := fun p w x hw hp => by
  have := hk w hw
  show Page.readByte (Page.writeWord p w x) k = b
  rw [readByte_writeWord]; simpa [this.1, this.2] using hp

/-- A word that is not among those written keeps its value. -/
theorem wordsKeep_readWord {A : Nat → Prop} {u : Nat} (hu : ¬ A u) (b : Word) :
    WordsKeep A (fun p => Page.readWord p u = b) := fun p w x hw hp => by
  show Page.readWord (Page.writeWord p w x) u = b
  rw [readWord_writeWord_ne p x (by rintro rfl; exact hu hw)]; exact hp

/-- The words of the record of voice `v`. -/
def voiceArea (v : VoiceIx) (w : Nat) : Prop := voiceBase v ≤ w ∧ w < voiceBase v + 16

/-- The words of the record of part `p`. -/
def partArea (p : PartIx) (w : Nat) : Prop := partBase p ≤ w ∧ w < partBase p + 32

/-- The words of request slot `i`. -/
def slotArea (i : SlotIx) (w : Nat) : Prop := slotBase i ≤ w ∧ w < slotBase i + 16

/-! ### Voices -/

@[simp] theorem regate_state (r : Bool) (x : Voice) : (x.regate r).state = x.state := rfl
@[simp] theorem regate_gateOut (r : Bool) (x : Voice) : (x.regate r).gateOut = x.gateRule r := rfl
@[simp] theorem regate_changeCount (r : Bool) (x : Voice) : (x.regate r).changeCount = x.changeCount := rfl

/-- Where no mirrored field has changed, a publication leaves the re-evaluated gate and writes nothing. -/
theorem publishVoice_same {s : State} {v : VoiceIx} {old : Voice}
    (h : voiceWords (s.regated v) = voiceWords old) :
    s.publishVoice v old = s.setVoice v (s.regated v) := by
  unfold State.publishVoice; exact if_pos h

/-- Where a mirrored field has changed, the count advances and the changed fields are written. -/
theorem publishVoice_changed {s : State} {v : VoiceIx} {old : Voice}
    (h : voiceWords (s.regated v) ≠ voiceWords old) :
    s.publishVoice v old =
      { s.setVoice v (s.regated v).counted with
        page :=
          Page.writeFields s.page (voiceBase v) voiceFields (voiceWords (old.shown (s.regated v)))
            (voiceWords (s.regated v).counted) } := by
  unfold State.publishVoice; exact if_neg h

theorem publishVoice_voice_ne (s : State) {v w : VoiceIx} (h : w ≠ v) (old : Voice) :
    (s.publishVoice v old).voice w = s.voice w := by
  by_cases hw : voiceWords (s.regated v) = voiceWords old
  · rw [publishVoice_same hw]; exact voice_setVoice_ne s h _
  · rw [publishVoice_changed hw]; exact voice_setVoice_ne s h _

/-- The record that a publication leaves: the gate re-evaluated, and the change count advanced if a mirrored
field has changed. -/
theorem publishVoice_voice_self (s : State) (v : VoiceIx) (old : Voice) :
    (s.publishVoice v old).voice v =
      if voiceWords (s.regated v) = voiceWords old then s.regated v
      else (s.regated v).counted := by
  by_cases hw : voiceWords (s.regated v) = voiceWords old
  · rw [publishVoice_same hw, if_pos hw]; exact voice_setVoice_self s v _
  · rw [publishVoice_changed hw, if_neg hw]; exact voice_setVoice_self s v _

/-- A publication changes the voice table and the page alone. -/
theorem publishVoice_keeps {α : Type} (g : State → α) (s : State) (v : VoiceIx) (old : Voice)
    (hg : ∀ vs pg, g { s with voices := vs, page := pg } = g s) : g (s.publishVoice v old) = g s := by
  by_cases hw : voiceWords (s.regated v) = voiceWords old
  · rw [publishVoice_same hw]; exact hg _ s.page
  · rw [publishVoice_changed hw]; exact hg _ _

/-- A publication writes words of the voice's record alone. -/
theorem publishVoice_page {P : Page → Prop} (s : State) (v : VoiceIx) (old : Voice)
    (hP : WordsKeep (voiceArea v) P) (h : P s.page) : P (s.publishVoice v old).page := by
  by_cases hw : voiceWords (s.regated v) = voiceWords old
  · rw [publishVoice_same hw]; exact h
  · rw [publishVoice_changed hw]
    exact hP.writeFields _ _ _ (fun i hi => ⟨by omega, by rw [voiceWords_length] at hi; omega⟩) h

theorem changeVoice_voice_ne (s : State) {v w : VoiceIx} (h : w ≠ v) (f : Voice → Voice) :
    (s.changeVoice v f).voice w = s.voice w := by
  rw [State.changeVoice, publishVoice_voice_ne _ h, voice_modVoice_ne _ h]

theorem changeVoice_voice_self (s : State) (v : VoiceIx) (f : Voice → Voice) :
    (s.changeVoice v f).voice v =
      if voiceWords ((f (s.voice v)).regate s.running) = voiceWords (s.voice v) then (f (s.voice v)).regate s.running
      else ((f (s.voice v)).regate s.running).counted := by
  rw [State.changeVoice, publishVoice_voice_self]; simp [State.regated]

theorem changeVoice_keeps {α : Type} (g : State → α) (s : State) (v : VoiceIx) (f : Voice → Voice)
    (hg : ∀ vs pg, g { s with voices := vs, page := pg } = g s) : g (s.changeVoice v f) = g s := by
  rw [State.changeVoice, publishVoice_keeps g _ _ _ (fun vs pg => ?_)]
  · exact hg _ s.page
  · exact (hg vs pg).trans (hg (s.voices.set v (f (s.voice v))) s.page).symm

theorem changeVoice_page {P : Page → Prop} (s : State) (v : VoiceIx) (f : Voice → Voice)
    (hP : WordsKeep (voiceArea v) P) (h : P s.page) : P (s.changeVoice v f).page :=
  publishVoice_page _ _ _ hP h

/-- The mirror follows: where the page shows the old record, it shows the new one after a publication
(R8). -/
theorem publishVoice_mirror (s : State) (v : VoiceIx) (old : Voice)
    (hc : (s.voice v).changeCount = old.changeCount)
    (h : Page.readWords s.page (voiceBase v) 16 = voiceWords old) :
    Page.readWords (s.publishVoice v old).page (voiceBase v) 16 = voiceWords ((s.publishVoice v old).voice v) := by
  have hs : old.shown (s.regated v) = old := if_pos hc
  rw [publishVoice_voice_self]
  by_cases hw : voiceWords (s.regated v) = voiceWords old
  · rw [publishVoice_same hw, if_pos hw, hw]; exact h
  · rw [publishVoice_changed hw, if_neg hw, hs]
    exact readWords_writeFields (new := voiceWords (s.regated v).counted) rfl rfl h

/-! ### Parts -/

theorem part_withPage (s : State) (pg : Page) (q : PartIx) : ({ s with page := pg } : State).part q = s.part q := rfl

theorem publishPart_same {s : State} {p : PartIx} {old : Part} (h : partWords (s.part p) = partWords old) :
    s.publishPart p old = s := by
  unfold State.publishPart; exact if_pos h

theorem publishPart_changed {s : State} {p : PartIx} {old : Part} (h : partWords (s.part p) ≠ partWords old) :
    s.publishPart p old =
      { s.setPart p (s.part p).counted with page := Page.rewritePart s.page p old (s.part p).counted } := by
  unfold State.publishPart; exact if_neg h

theorem publishPart_part_ne (s : State) {p q : PartIx} (h : q ≠ p) (old : Part) :
    (s.publishPart p old).part q = s.part q := by
  by_cases hw : partWords (s.part p) = partWords old
  · rw [publishPart_same hw]
  · rw [publishPart_changed hw, part_withPage]; exact part_setPart_ne s h _

/-- The record that a publication leaves: the change count advanced if a mirrored field has changed. -/
theorem publishPart_part_self (s : State) (p : PartIx) (old : Part) :
    (s.publishPart p old).part p =
      if partWords (s.part p) = partWords old then s.part p
      else (s.part p).counted := by
  by_cases hw : partWords (s.part p) = partWords old
  · rw [publishPart_same hw, if_pos hw]
  · rw [publishPart_changed hw, if_neg hw, part_withPage]; exact part_setPart_self s p _

theorem publishPart_keeps {α : Type} (g : State → α) (s : State) (p : PartIx) (old : Part)
    (hg : ∀ ps pg, g { s with parts := ps, page := pg } = g s) : g (s.publishPart p old) = g s := by
  by_cases hw : partWords (s.part p) = partWords old
  · rw [publishPart_same hw]
  · rw [publishPart_changed hw]; exact hg _ _

theorem rewritePart_keeps {P : Page → Prop} (g : Page) (p : PartIx) (old new : Part)
    (hP : WordsKeep (partArea p) P) (h : P g) : P (Page.rewritePart g p old new) := by
  have h1 : P (Page.writeFields g (partBase p) partFields (partWords old) (partWords new)) :=
    hP.writeFields _ _ _ (fun i hi => by rw [partWords_length] at hi; exact ⟨by omega, by omega⟩) h
  have h2 := hP.writeWords partZeros (w := partBase p + 24)
    (fun i hi => by rw [partZeros_length] at hi; exact ⟨by omega, by omega⟩) h1
  exact hP _ (partBase p + partCountWord) new.changeCount ⟨Nat.le_add_right .., Nat.add_lt_add_left (by decide) _⟩ h2

theorem publishPart_page {P : Page → Prop} (s : State) (p : PartIx) (old : Part)
    (hP : WordsKeep (partArea p) P) (h : P s.page) : P (s.publishPart p old).page := by
  by_cases hw : partWords (s.part p) = partWords old
  · rw [publishPart_same hw]; exact h
  · have hpage : (s.publishPart p old).page = Page.rewritePart s.page p old (s.part p).counted := by
      rw [publishPart_changed hw]
    rw [hpage]; exact rewritePart_keeps s.page p old _ hP h

theorem changePart_part_ne (s : State) {p q : PartIx} (h : q ≠ p) (f : Part → Part) :
    (s.changePart p f).part q = s.part q := by
  rw [State.changePart, publishPart_part_ne _ h, part_modPart_ne _ h]

theorem changePart_part_self (s : State) (p : PartIx) (f : Part → Part) :
    (s.changePart p f).part p =
      if partWords (f (s.part p)) = partWords (s.part p) then f (s.part p)
      else (f (s.part p)).counted := by
  rw [State.changePart, publishPart_part_self]; simp

theorem changePart_keeps {α : Type} (g : State → α) (s : State) (p : PartIx) (f : Part → Part)
    (hg : ∀ ps pg, g { s with parts := ps, page := pg } = g s) : g (s.changePart p f) = g s := by
  rw [State.changePart, publishPart_keeps g _ _ _ (fun ps pg => ?_)]
  · exact hg _ s.page
  · exact (hg ps pg).trans (hg (s.parts.set p (f (s.part p))) s.page).symm

theorem changePart_page {P : Page → Prop} (s : State) (p : PartIx) (f : Part → Part)
    (hP : WordsKeep (partArea p) P) (h : P s.page) : P (s.changePart p f).page :=
  publishPart_page _ _ _ hP h

/-! ### Folds -/

/-- A projection that every pass of a fold keeps is kept by the fold. -/
theorem foldl_keeps {α β : Type} (g : State → α) (f : State → β → State) (hf : ∀ s b, g (f s b) = g s)
    (l : List β) (s : State) : g (l.foldl f s) = g s := by
  induction l generalizing s with
  | nil => rfl
  | cons b l ih => rw [List.foldl_cons, ih, hf]

/-- A property of states that every pass of a fold keeps is kept by the fold. -/
theorem foldl_inv {β : Type} (P : State → Prop) (f : State → β → State) (hf : ∀ s b, P s → P (f s b))
    (l : List β) {s : State} (h : P s) : P (l.foldl f s) := by
  induction l generalizing s with
  | nil => exact h
  | cons b l ih => exact ih (hf s b h)

theorem forVoices_keeps {α : Type} (g : State → α) (f : VoiceIx → State → State) (hf : ∀ s v, g (f v s) = g s)
    (s : State) : g (forVoices f s) = g s := foldl_keeps g _ hf _ s

theorem forVoices_inv (P : State → Prop) (f : VoiceIx → State → State) (hf : ∀ s v, P s → P (f v s))
    {s : State} (h : P s) : P (forVoices f s) := foldl_inv P _ hf _ h

/-- A pass over voices that touches each voice alone leaves what it makes of voice `w`. -/
theorem foldl_voice_at (f : VoiceIx → State → State) (hne : ∀ s v w, w ≠ v → (f v s).voice w = s.voice w)
    (l : List VoiceIx) (w : VoiceIx) (hw : w ∉ l) (s : State) :
    (l.foldl (fun t v => f v t) s).voice w = s.voice w := by
  induction l generalizing s with
  | nil => rfl
  | cons v l ih =>
    simp only [List.mem_cons, not_or] at hw
    rw [List.foldl_cons, ih hw.2, hne _ _ _ hw.1]

/-! ### Stamps -/

theorem renumberStamps_keeps {α : Type} (g : State → α) (s : State)
    (hg : ∀ t vs pg q, g { t with voices := vs, page := pg, sequence := q } = g t) : g (renumberStamps s) = g s := by
  unfold renumberStamps
  refine (hg _ _ _ _).trans ?_
  exact forVoices_keeps g _ (fun t v => changeVoice_keeps g t v _ fun vs pg => hg t vs pg t.sequence) s

theorem issueStamp_keeps {α : Type} (g : State → α) (s : State)
    (hg : ∀ t vs pg q, g { t with voices := vs, page := pg, sequence := q } = g t) : g (issueStamp s) = g s := by
  unfold issueStamp
  split
  · exact (hg _ _ _ _).trans (renumberStamps_keeps g s hg)
  · exact hg s s.voices s.page _

theorem issueStamp_page {P : Page → Prop} (s : State) (hP : ∀ v, WordsKeep (voiceArea v) P) (h : P s.page) :
    P (issueStamp s).page := by
  unfold issueStamp
  split
  · exact forVoices_inv (fun t => P t.page) _ (fun t v ht => changeVoice_page t v _ (hP v) ht) h
  · exact h

/-- Short of the counter's end a stamp is the counter advanced by one, and nothing else changes (R4). -/
theorem issueStamp_of_ne {s : State} (h : s.sequence ≠ 0xFFFFFFFF#32) :
    issueStamp s = { s with sequence := s.sequence + 1#32 } := by
  simp [issueStamp, h]

theorem takeAge_of_ne {s : State} (v : VoiceIx) (h : s.sequence ≠ 0xFFFFFFFF#32) :
    takeAge v s =
      ({ s with sequence := s.sequence + 1#32 } : State).modVoice v fun x => { x with ageStamp := s.sequence + 1#32 } := by
  simp [takeAge, issueStamp_of_ne h]

theorem takeRelease_of_ne {s : State} (v : VoiceIx) (h : s.sequence ≠ 0xFFFFFFFF#32) :
    takeRelease v s =
      ({ s with sequence := s.sequence + 1#32 } : State).modVoice v fun x =>
        { x with releaseStamp := s.sequence + 1#32 } := by
  simp [takeRelease, issueStamp_of_ne h]

theorem takeAge_keeps {α : Type} (g : State → α) (v : VoiceIx) (s : State)
    (hg : ∀ t vs pg q, g { t with voices := vs, page := pg, sequence := q } = g t) : g (takeAge v s) = g s :=
  (hg _ _ _ _).trans (issueStamp_keeps g s hg)

theorem takeRelease_keeps {α : Type} (g : State → α) (v : VoiceIx) (s : State)
    (hg : ∀ t vs pg q, g { t with voices := vs, page := pg, sequence := q } = g t) : g (takeRelease v s) = g s :=
  (hg _ _ _ _).trans (issueStamp_keeps g s hg)

theorem dropGate_keeps {α : Type} (g : State → α) (v : VoiceIx) (s : State)
    (hg : ∀ t vs pg q, g { t with voices := vs, page := pg, sequence := q } = g t) : g (dropGate v s) = g s := by
  unfold dropGate
  refine (hg _ _ _ _).trans ?_
  split
  · exact takeRelease_keeps g v s hg
  · rfl

theorem takeAge_page {P : Page → Prop} (v : VoiceIx) (s : State) (hP : ∀ v, WordsKeep (voiceArea v) P)
    (h : P s.page) : P (takeAge v s).page := issueStamp_page s hP h

theorem takeRelease_page {P : Page → Prop} (v : VoiceIx) (s : State) (hP : ∀ v, WordsKeep (voiceArea v) P)
    (h : P s.page) : P (takeRelease v s).page := issueStamp_page s hP h

theorem dropGate_page {P : Page → Prop} (v : VoiceIx) (s : State) (hP : ∀ v, WordsKeep (voiceArea v) P)
    (h : P s.page) : P (dropGate v s).page := by
  unfold dropGate
  show P (State.modVoice _ v _).page
  rw [modVoice_page]
  split
  · exact takeRelease_page v s hP h
  · exact h

/-! ### The gate unit's written set -/

theorem clearPitch_keeps {α : Type} (g : State → α) (v : VoiceIx) (s : State)
    (hg : ∀ t vs r, g { t with voices := vs, refresh := r } = g t) : g (clearPitch v s) = g s := hg s _ _

@[simp] theorem clearPitch_page (v : VoiceIx) (s : State) : (clearPitch v s).page = s.page := rfl
@[simp] theorem clearPitch_parts (v : VoiceIx) (s : State) : (clearPitch v s).parts = s.parts := rfl
@[simp] theorem clearPitch_patch (v : VoiceIx) (s : State) : (clearPitch v s).patch = s.patch := rfl
@[simp] theorem clearPitch_sequence (v : VoiceIx) (s : State) : (clearPitch v s).sequence = s.sequence := rfl
@[simp] theorem clearPitch_running (v : VoiceIx) (s : State) : (clearPitch v s).running = s.running := rfl

theorem clearPitch_voice_self (v : VoiceIx) (s : State) :
    (clearPitch v s).voice v =
      ({ s.voice v with pitchWritten := false } : Voice).emptyWritten.settleWritten s.refresh.map v := by
  unfold clearPitch; rw [voice_modVoice_self]; rfl

theorem clearPitch_voice_ne {v w : VoiceIx} (h : w ≠ v) (s : State) :
    (clearPitch v s).voice w = s.voice w := by
  unfold clearPitch; rw [voice_modVoice_ne _ h]; rfl

/-! ### Cutting -/

/-- A voice that is not active is passed over by a cut (R7). -/
theorem cutVoice_of_not_active (out : Bool) {v : VoiceIx} {s : State} (h : (s.voice v).state.active = false) :
    cutVoice out v s = s := by simp [cutVoice, h]

theorem cutVoice_keeps {α : Type} (g : State → α) (out : Bool) (v : VoiceIx) (s : State)
    (hg : ∀ t vs pg q, g { t with voices := vs, page := pg, sequence := q } = g t) : g (cutVoice out v s) = g s := by
  unfold cutVoice cutUnpublished
  split
  · rw [publishVoice_keeps g _ v _ fun vs pg => hg _ vs pg _]
    exact (hg _ _ _ _).trans (dropGate_keeps g v s hg)
  · rfl

theorem cutVoice_page {P : Page → Prop} (out : Bool) (v : VoiceIx) (s : State) (hP : ∀ v, WordsKeep (voiceArea v) P)
    (h : P s.page) : P (cutVoice out v s).page := by
  unfold cutVoice cutUnpublished
  split
  · exact publishVoice_page _ v _ (hP v) (dropGate_page v s hP h)
  · exact h

/-! ### Completions -/

theorem writeCompletion_page {P : Page → Prop} (i : SlotIx) (c : Completion) (s : State)
    (hP : WordsKeep (slotArea i) P) (h : P s.page) : P (writeCompletion i c s).page :=
  hP _ _ _ ⟨by omega, by omega⟩
    (hP.writeWords _ (fun j hj => ⟨by omega, by simp at hj; omega⟩) h)

/-- A completion changes the sweeper's in-flight set, the header's discarded count, the causes and the page
alone. -/
theorem complete_keeps {α : Type} (g : State → α) (r : Inflight) (c : Completion) (s : State)
    (hg : ∀ t sw h po pg, g { t with sweeper := sw, header := h, port := po, page := pg } = g t) :
    g (complete r c s) = g s := by
  unfold complete
  split
  · exact hg s _ s.header _ _
  · exact hg s _ _ s.port _

theorem complete_page {P : Page → Prop} (r : Inflight) (c : Completion) (s : State)
    (hP : WordsKeep (slotArea r.slot) P) (hd : WordsKeep (fun w => w = headerBase + 12) P) (h : P s.page) :
    P (complete r c s).page := by
  unfold complete
  split
  · exact writeCompletion_page r.slot c _ hP h
  · exact hd _ _ _ rfl h

/-- The request leaves the in-flight set whether its completion is written or dropped (R197). -/
@[simp] theorem complete_sweeper (r : Inflight) (c : Completion) (s : State) :
    (complete r c s).sweeper = s.sweeper.leave r := by
  unfold complete
  split <;> rfl

/-- A completion is written where the slot still shows the request, and SLOT is set (R197). -/
theorem complete_of_taken {r : Inflight} {s : State} (c : Completion)
    (h : slotState s.page r.slot = slotTaken ∧ slotTicket s.page r.slot = r.ticket) :
    complete r c s = setCause causeSlot (writeCompletion r.slot c { s with sweeper := s.sweeper.leave r }) := by
  simp [complete, h]

/-- A completion is dropped and counted where the slot does not show the request any more (R197). -/
theorem complete_of_not_taken {r : Inflight} {s : State} (c : Completion)
    (h : ¬ (slotState s.page r.slot = slotTaken ∧ slotTicket s.page r.slot = r.ticket)) :
    complete r c s = discardCompletion { s with sweeper := s.sweeper.leave r } := by
  unfold complete
  rw [if_neg h]

end Sys2Proof.Machine
end

