-- ==== Sys2Proof/Laws/Frame.lean ====
section
/-! SUPPORT. Frames: which components of the state, and which page words, an operation may change. Each
operation has one `_frame` lemma, for any footprint and area that allow what it does, so that the frames of
a run of operations compose by `Frame.trans`. -/

namespace Sys2Proof.Machine

/-- Which components of the state may change; the queue and the part time never do. -/
structure Foot where
  port : Bool := false
  header : Bool := false
  sweeper : Bool := false
  voices : Bool := false
  parts : Bool := false
  sequence : Bool := false
  refresh : Bool := false
  tune : Bool := false
  patch : Bool := false
  router : Bool := false
  panel : Bool := false

/-- From `s` to `t` only components of the footprint `F` have changed, and page words that `A` picks out. -/
structure Frame (F : Foot) (A : Nat → Prop) (s t : State) : Prop where
  pending : t.pending = s.pending
  time : t.time = s.time
  port : F.port = false → t.port = s.port
  header : F.header = false → t.header = s.header
  sweeper : F.sweeper = false → t.sweeper = s.sweeper
  voices : F.voices = false → t.voices = s.voices
  parts : F.parts = false → t.parts = s.parts
  sequence : F.sequence = false → t.sequence = s.sequence
  refresh : F.refresh = false → t.refresh = s.refresh
  tune : F.tune = false → t.tune = s.tune
  patch : F.patch = false → t.patch = s.patch
  router : F.router = false → t.router = s.router
  panel : F.panel = false → t.panel = s.panel
  page : ∀ P, WordsKeep A P → P s.page → P t.page

variable {F : Foot} {A : Nat → Prop} {s t u : State}

theorem Frame.refl (s : State) : Frame F A s s := by
  constructor <;> first | rfl | exact fun _ => rfl | exact fun _ _ h => h

theorem Frame.trans (h : Frame F A s t) (k : Frame F A t u) : Frame F A s u where
  pending := k.pending.trans h.pending
  time := k.time.trans h.time
  port := fun e => (k.port e).trans (h.port e)
  header := fun e => (k.header e).trans (h.header e)
  sweeper := fun e => (k.sweeper e).trans (h.sweeper e)
  voices := fun e => (k.voices e).trans (h.voices e)
  parts := fun e => (k.parts e).trans (h.parts e)
  sequence := fun e => (k.sequence e).trans (h.sequence e)
  refresh := fun e => (k.refresh e).trans (h.refresh e)
  tune := fun e => (k.tune e).trans (h.tune e)
  patch := fun e => (k.patch e).trans (h.patch e)
  router := fun e => (k.router e).trans (h.router e)
  panel := fun e => (k.panel e).trans (h.panel e)
  page := fun P hP hp => k.page P hP (h.page P hP hp)

/-- A byte outside the area reads as before. -/
theorem Frame.readByte (h : Frame F A s t) {k : Nat} (hk : ∀ w, A w → k ≠ 2 * w ∧ k ≠ 2 * w + 1) :
    Page.readByte t.page k = Page.readByte s.page k :=
  h.page (fun p => Page.readByte p k = Page.readByte s.page k) (wordsKeep_readByte hk _) rfl

/-- A word outside the area reads as before. -/
theorem Frame.readWord (h : Frame F A s t) {w : Nat} (hw : ¬ A w) :
    Page.readWord t.page w = Page.readWord s.page w :=
  h.page (fun p => Page.readWord p w = Page.readWord s.page w) (wordsKeep_readWord hw _) rfl

/-- The page keeps its canonical form. -/
theorem Frame.wf (h : Frame F A s t) (hs : Page.wf s.page = true) : Page.wf t.page = true :=
  h.page _ (wordsKeep_wf A) hs

theorem Frame.running (h : Frame F A s t) (hF : F.port = false) : t.running = s.running := by
  unfold State.running
  rw [h.port hF]

/-- A state that agrees with `t` outside the footprint is reached by the frame's components. -/
theorem Frame.eq (h : Frame F A s t) :
    t =
      { pending := s.pending
        page := t.page
        time := s.time
        port := if F.port then t.port else s.port
        header := if F.header then t.header else s.header
        sweeper := if F.sweeper then t.sweeper else s.sweeper
        voices := if F.voices then t.voices else s.voices
        parts := if F.parts then t.parts else s.parts
        sequence := if F.sequence then t.sequence else s.sequence
        refresh := if F.refresh then t.refresh else s.refresh
        tune := if F.tune then t.tune else s.tune
        patch := if F.patch then t.patch else s.patch
        router := if F.router then t.router else s.router
        panel := if F.panel then t.panel else s.panel } := by
  have part {α : Type} {b : Bool} {x y : α} (e : b = false → x = y) : x = if b then x else y := by
    cases b
    · exact e rfl
    · rfl
  rw [← h.pending, ← h.time, ← part h.port, ← part h.header, ← part h.sweeper, ← part h.voices, ← part h.parts,
    ← part h.sequence, ← part h.refresh, ← part h.tune, ← part h.patch, ← part h.router, ← part h.panel]

/-! ### Single updates -/

theorem off {b : Bool} {P : Prop} (h : b = true) (k : b = false) : P := by
  rw [h] at k
  cases k

theorem Frame.setPort (h : F.port = true) (x : Port) : Frame F A s { s with port := x } := by
  constructor <;> first | rfl | exact fun _ => rfl | exact off h | exact fun _ _ h => h

theorem Frame.setHeader (h : F.header = true) (x : Header) : Frame F A s { s with header := x } := by
  constructor <;> first | rfl | exact fun _ => rfl | exact off h | exact fun _ _ h => h

theorem Frame.setSweeper (h : F.sweeper = true) (x : Sweeper) : Frame F A s { s with sweeper := x } := by
  constructor <;> first | rfl | exact fun _ => rfl | exact off h | exact fun _ _ h => h

theorem Frame.setVoices (h : F.voices = true) (x : Vector Voice 16) : Frame F A s { s with voices := x } := by
  constructor <;> first | rfl | exact fun _ => rfl | exact off h | exact fun _ _ h => h

theorem Frame.setParts (h : F.parts = true) (x : Vector Part 4) : Frame F A s { s with parts := x } := by
  constructor <;> first | rfl | exact fun _ => rfl | exact off h | exact fun _ _ h => h

theorem Frame.setSequence (h : F.sequence = true) (x : Long) : Frame F A s { s with sequence := x } := by
  constructor <;> first | rfl | exact fun _ => rfl | exact off h | exact fun _ _ h => h

theorem Frame.setRefresh (h : F.refresh = true) (x : Refresh) : Frame F A s { s with refresh := x } := by
  constructor <;> first | rfl | exact fun _ => rfl | exact off h | exact fun _ _ h => h

theorem Frame.setTune (h : F.tune = true) (x : Tune) : Frame F A s { s with tune := x } := by
  constructor <;> first | rfl | exact fun _ => rfl | exact off h | exact fun _ _ h => h

theorem Frame.setPatch (h : F.patch = true) (x : Patch) : Frame F A s { s with patch := x } := by
  constructor <;> first | rfl | exact fun _ => rfl | exact off h | exact fun _ _ h => h

theorem Frame.setRouter (h : F.router = true) (x : Router) : Frame F A s { s with router := x } := by
  constructor <;> first | rfl | exact fun _ => rfl | exact off h | exact fun _ _ h => h

theorem Frame.setPanel (h : F.panel = true) (x : Panel) : Frame F A s { s with panel := x } := by
  constructor <;> first | rfl | exact fun _ => rfl | exact off h | exact fun _ _ h => h

theorem Frame.setPage (p : Page) (h : ∀ P, WordsKeep A P → P s.page → P p) : Frame F A s { s with page := p } := by
  constructor <;> first | rfl | exact fun _ => rfl | exact h

theorem Frame.setPortPage (h : F.port = true) (x : Port) {p : Page} (hp : ∀ P, WordsKeep A P → P s.page → P p) :
    Frame F A s { s with port := x, page := p } := by
  constructor <;> first | rfl | exact fun _ => rfl | exact off h | exact hp

theorem Frame.setTunePage (h : F.tune = true) (x : Tune) {p : Page} (hp : ∀ P, WordsKeep A P → P s.page → P p) :
    Frame F A s { s with tune := x, page := p } := by
  constructor <;> first | rfl | exact fun _ => rfl | exact off h | exact hp

theorem Frame.setHeaderPage (h : F.header = true) (x : Header) {p : Page} (hp : ∀ P, WordsKeep A P → P s.page → P p) :
    Frame F A s { s with header := x, page := p } := by
  constructor <;> first | rfl | exact fun _ => rfl | exact off h | exact hp

theorem Frame.setSweeperPage (h : F.sweeper = true) (x : Sweeper) {p : Page} (hp : ∀ P, WordsKeep A P → P s.page → P p) :
    Frame F A s { s with sweeper := x, page := p } := by
  constructor <;> first | rfl | exact fun _ => rfl | exact off h | exact hp

theorem Frame.writeWord {w : Nat} (hA : A w) (v : Word) : Frame F A s (s.writeWord w v) :=
  .setPage _ fun _ hP h => hP _ _ _ hA h

theorem Frame.writeWords {w : Nat} (vs : List Word) (hA : ∀ i < vs.length, A (w + i)) :
    Frame F A s (s.writeWords w vs) :=
  .setPage _ fun _ hP h => hP.writeWords vs hA h

theorem Frame.ite {c : Prop} [Decidable c] {x y : State} (hx : c → Frame F A s x) (hy : ¬ c → Frame F A s y) :
    Frame F A s (if c then x else y) := by
  split
  · exact hx ‹_›
  · exact hy ‹_›

/-- A fold whose passes keep the frame keeps it. -/
theorem Frame.foldl {β : Type} {f : State → β → State} (hf : ∀ x b, Frame F A x (f x b)) (l : List β) (s : State) :
    Frame F A s (l.foldl f s) := by
  induction l generalizing s with
  | nil => exact .refl s
  | cons b l ih => exact (hf s b).trans (ih (f s b))

theorem Frame.forVoices {f : VoiceIx → State → State} (hf : ∀ v x, Frame F A x (f v x)) (s : State) :
    Frame F A s (forVoices f s) :=
  .foldl (fun x v => hf v x) _ s

/-! ### Causes, voices and parts -/

theorem setCause_frame (h : F.port = true) (c : Byte) (s : State) : Frame F A s (setCause c s) := .setPort h _

theorem setVoice_frame (h : F.voices = true) (v : VoiceIx) (x : Voice) (s : State) : Frame F A s (s.setVoice v x) :=
  .setVoices h _

theorem modVoice_frame (h : F.voices = true) (v : VoiceIx) (f : Voice → Voice) (s : State) :
    Frame F A s (s.modVoice v f) :=
  .setVoices h _

theorem modPart_frame (h : F.parts = true) (p : PartIx) (f : Part → Part) (s : State) : Frame F A s (s.modPart p f) :=
  .setParts h _

theorem publishVoice_frame (h : F.voices = true) {v : VoiceIx} (hA : ∀ w, voiceArea v w → A w) (old : Voice)
    (s : State) : Frame F A s (s.publishVoice v old) where
  pending := publishVoice_keeps State.pending s v old fun _ _ => rfl
  time := publishVoice_keeps State.time s v old fun _ _ => rfl
  port := fun _ => publishVoice_keeps State.port s v old fun _ _ => rfl
  header := fun _ => publishVoice_keeps State.header s v old fun _ _ => rfl
  sweeper := fun _ => publishVoice_keeps State.sweeper s v old fun _ _ => rfl
  voices := off h
  parts := fun _ => publishVoice_keeps State.parts s v old fun _ _ => rfl
  sequence := fun _ => publishVoice_keeps State.sequence s v old fun _ _ => rfl
  refresh := fun _ => publishVoice_keeps State.refresh s v old fun _ _ => rfl
  tune := fun _ => publishVoice_keeps State.tune s v old fun _ _ => rfl
  patch := fun _ => publishVoice_keeps State.patch s v old fun _ _ => rfl
  router := fun _ => publishVoice_keeps State.router s v old fun _ _ => rfl
  panel := fun _ => publishVoice_keeps State.panel s v old fun _ _ => rfl
  page := fun _ hP hp => publishVoice_page s v old (hP.mono hA) hp

theorem changeVoice_frame (h : F.voices = true) {v : VoiceIx} (hA : ∀ w, voiceArea v w → A w) (f : Voice → Voice)
    (s : State) : Frame F A s (s.changeVoice v f) :=
  (modVoice_frame h v f s).trans (publishVoice_frame h hA _ _)

theorem publishPart_frame (h : F.parts = true) {p : PartIx} (hA : ∀ w, partArea p w → A w) (old : Part)
    (s : State) : Frame F A s (s.publishPart p old) where
  pending := publishPart_keeps State.pending s p old fun _ _ => rfl
  time := publishPart_keeps State.time s p old fun _ _ => rfl
  port := fun _ => publishPart_keeps State.port s p old fun _ _ => rfl
  header := fun _ => publishPart_keeps State.header s p old fun _ _ => rfl
  sweeper := fun _ => publishPart_keeps State.sweeper s p old fun _ _ => rfl
  voices := fun _ => publishPart_keeps State.voices s p old fun _ _ => rfl
  parts := off h
  sequence := fun _ => publishPart_keeps State.sequence s p old fun _ _ => rfl
  refresh := fun _ => publishPart_keeps State.refresh s p old fun _ _ => rfl
  tune := fun _ => publishPart_keeps State.tune s p old fun _ _ => rfl
  patch := fun _ => publishPart_keeps State.patch s p old fun _ _ => rfl
  router := fun _ => publishPart_keeps State.router s p old fun _ _ => rfl
  panel := fun _ => publishPart_keeps State.panel s p old fun _ _ => rfl
  page := fun _ hP hp => publishPart_page s p old (hP.mono hA) hp

theorem changePart_frame (h : F.parts = true) {p : PartIx} (hA : ∀ w, partArea p w → A w) (f : Part → Part)
    (s : State) : Frame F A s (s.changePart p f) :=
  (modPart_frame h p f s).trans (publishPart_frame h hA _ _)

/-! ### Stamps, flags and cuts -/

/-- A stamp issued may renumber, which rewrites voice records (R5). -/
theorem issueStamp_frame (hv : F.voices = true) (hq : F.sequence = true) (hA : ∀ v w, voiceArea v w → A w)
    (s : State) : Frame F A s (issueStamp s) := by
  refine Frame.trans (t := if s.sequence = 0xFFFFFFFF#32 then renumberStamps s else s) ?_ (.setSequence hq _)
  refine .ite (fun _ => ?_) fun _ => .refl s
  exact (Frame.forVoices (fun v x => changeVoice_frame hv (hA v) _ x) s).trans (.setSequence hq _)

theorem takeAge_frame (hv : F.voices = true) (hq : F.sequence = true) (hA : ∀ v w, voiceArea v w → A w) (v : VoiceIx)
    (s : State) : Frame F A s (takeAge v s) := by
  unfold takeAge
  exact (issueStamp_frame hv hq hA s).trans (modVoice_frame hv v _ _)

theorem takeRelease_frame (hv : F.voices = true) (hq : F.sequence = true) (hA : ∀ v w, voiceArea v w → A w)
    (v : VoiceIx) (s : State) : Frame F A s (takeRelease v s) := by
  unfold takeRelease
  exact (issueStamp_frame hv hq hA s).trans (modVoice_frame hv v _ _)

theorem dropGate_frame (hv : F.voices = true) (hq : F.sequence = true) (hA : ∀ v w, voiceArea v w → A w)
    (v : VoiceIx) (s : State) : Frame F A s (dropGate v s) := by
  unfold dropGate
  refine Frame.trans ?_ (modVoice_frame hv v _ _)
  exact .ite (fun _ => takeRelease_frame hv hq hA v s) fun _ => .refl s

theorem clearPitch_frame (hv : F.voices = true) (hr : F.refresh = true) (v : VoiceIx) (s : State) :
    Frame F A s (clearPitch v s) :=
  (Frame.setRefresh hr _).trans (modVoice_frame hv v _ _)

theorem retrigger_frame (hv : F.voices = true) (hr : F.refresh = true) (v : VoiceIx) (s : State) :
    Frame F A s (retrigger v s) :=
  (clearPitch_frame hv hr v s).trans (modVoice_frame hv v _ _)

theorem cutUnpublished_frame (hv : F.voices = true) (hq : F.sequence = true) (hA : ∀ v w, voiceArea v w → A w)
    (out : Bool) (v : VoiceIx) (s : State) : Frame F A s (cutUnpublished out v s) :=
  (dropGate_frame hv hq hA v s).trans (modVoice_frame hv v _ _)

theorem cutVoice_frame (hv : F.voices = true) (hq : F.sequence = true) (hA : ∀ v w, voiceArea v w → A w)
    (out : Bool) (v : VoiceIx) (s : State) : Frame F A s (cutVoice out v s) :=
  .ite (fun _ => (cutUnpublished_frame hv hq hA out v s).trans (publishVoice_frame hv (hA v) _ _)) fun _ => .refl s

/-! ### Completions -/

/-- A completion writes the request's slot, or the discarded count (R197). -/
theorem complete_frame (hs : F.sweeper = true) (hh : F.header = true) (hp : F.port = true) (r : Inflight)
    (hA : ∀ w, slotArea r.slot w → A w) (hd : A 12) (c : Completion) (s : State) :
    Frame F A s (complete r c s) where
  pending := complete_keeps State.pending r c s fun _ _ _ _ _ => rfl
  time := complete_keeps State.time r c s fun _ _ _ _ _ => rfl
  port := off hp
  header := off hh
  sweeper := off hs
  voices := fun _ => complete_keeps State.voices r c s fun _ _ _ _ _ => rfl
  parts := fun _ => complete_keeps State.parts r c s fun _ _ _ _ _ => rfl
  sequence := fun _ => complete_keeps State.sequence r c s fun _ _ _ _ _ => rfl
  refresh := fun _ => complete_keeps State.refresh r c s fun _ _ _ _ _ => rfl
  tune := fun _ => complete_keeps State.tune r c s fun _ _ _ _ _ => rfl
  patch := fun _ => complete_keeps State.patch r c s fun _ _ _ _ _ => rfl
  router := fun _ => complete_keeps State.router r c s fun _ _ _ _ _ => rfl
  panel := fun _ => complete_keeps State.panel r c s fun _ _ _ _ _ => rfl
  page := fun _ hP h => complete_page r c s (hP.mono hA) (hP.mono fun _ e => e ▸ hd) h

end Sys2Proof.Machine
end

