-- ==== Sys2Proof/Laws/Engines.lean ====
section
/-! SUPPORT. The frames of the tune engine and of note assignment: for every footprint and area that admit
their work, each operation of Sys2Proof/Machine/TuneOps.lean and NoteOps.lean keeps the frame. -/

namespace Sys2Proof.Machine

variable {F : Foot} {A : Nat → Prop} {s t u : State}

/-! ### What the work of an engine needs -/

/-- The frame admits the completion of any request (R197). -/
structure Completes (F : Foot) (A : Nat → Prop) : Prop where
  sweeper : F.sweeper = true
  header : F.header = true
  port : F.port = true
  slots : ∀ i w, slotArea i w → A w
  discarded : A 12

/-- The frame admits a change of any voice and an issue of stamps (R4, R8). -/
structure VoiceWork (F : Foot) (A : Nat → Prop) : Prop where
  voices : F.voices = true
  sequence : F.sequence = true
  area : ∀ v w, voiceArea v w → A w

/-- The words of the tune status block. -/
def statusArea (w : Nat) : Prop := statusBase ≤ w ∧ w < statusBase + 32

/-- The words of fault log entry `i`. -/
def faultArea (i : Fin 16) (w : Nat) : Prop := faultBase i ≤ w ∧ w < faultBase i + 8

/-- The words of the tune area entry of target `t`. -/
def tuneArea (t : TargetIx) (w : Nat) : Prop := tuneBase t ≤ w ∧ w < tuneBase t + 12

/-- The frame admits the work of the tune engine. -/
structure TuneWork (F : Foot) (A : Nat → Prop) : Prop where
  tune : F.tune = true
  voices : F.voices = true
  area : ∀ v w, voiceArea v w → A w
  status : ∀ w, statusArea w → A w
  faults : ∀ i w, faultArea i w → A w
  recs : ∀ t w, tuneArea t w → A w
  ends : Completes F A

/-- The frame admits the work of note assignment: voices, parts, and the tune engine's yields. -/
structure NoteWork (F : Foot) (A : Nat → Prop) : Prop where
  parts : F.parts = true
  refresh : F.refresh = true
  voice : VoiceWork F A
  tune : TuneWork F A

theorem Frame.complete (h : Completes F A) (k : Frame F A s t) (r : Inflight) (c : Completion) :
    Frame F A s (complete r c t) :=
  k.trans (complete_frame h.sweeper h.header h.port r (h.slots r.slot) h.discarded c t)

/-! ### The tune engine -/

theorem publishStatus_frame (h : TuneWork F A) (s : State) : Frame F A s (publishStatus s) :=
  .writeWords _ fun i hi => h.status _ ⟨Nat.le_add_right _ _, by simpa using hi⟩

theorem setTarget_frame (h : TuneWork F A) (t : TargetIx) (r : TuneRec) (s : State) :
    Frame F A s (setTarget t r s) :=
  (Frame.setTune h.tune { s.tune with recs := s.tune.recs.set t r }).trans
    (.writeWords _ fun i hi => h.recs t _ ⟨Nat.le_add_right _ _, by simpa using hi⟩)

theorem modJob_frame (h : TuneWork F A) (f : TuneJob → TuneJob) (s : State) : Frame F A s (modJob f s) :=
  .setTune h.tune _

theorem modReq_frame (h : TuneWork F A) (f : TuneReq → TuneReq) (s : State) : Frame F A s (modReq f s) :=
  .setTune h.tune _

theorem makeOffer_frame (h : TuneWork F A) (code : Word) (s : State) : Frame F A s (makeOffer code s) :=
  (Frame.setTune h.tune _).trans (publishStatus_frame h _)

theorem beginAttempt_frame (h : TuneWork F A) (s : State) : Frame F A s (beginAttempt s) := by
  unfold beginAttempt
  split
  · exact (modJob_frame h _ s).trans (makeOffer_frame h _ _)
  · exact .refl s

theorem takeTarget_frame (h : TuneWork F A) (e : QueueEntry) (s : State) : Frame F A s (takeTarget e s) := by
  unfold takeTarget
  exact (Frame.setTune h.tune _).trans (beginAttempt_frame h _)

theorem reserveVoice_frame (h : TuneWork F A) (v : VoiceIx) (s : State) : Frame F A s (reserveVoice v s) :=
  changeVoice_frame h.voices (h.area v) _ s

theorem returnVoice_frame (h : TuneWork F A) (v : VoiceIx) (s : State) : Frame F A s (returnVoice v s) :=
  .ite (fun _ => changeVoice_frame h.voices (h.area v) _ s) fun _ => .refl s

theorem dropJob_frame (h : TuneWork F A) (s : State) : Frame F A s (dropJob s) :=
  (Frame.setTune h.tune _).trans (publishStatus_frame h _)

theorem finishTune_frame (h : TuneWork F A) (s : State) : Frame F A s (finishTune s) := by
  unfold finishTune
  split
  · exact .refl s
  · exact .ite (fun _ => (Frame.setTune h.tune _).complete h.ends _ _) fun _ => .refl s

theorem endTarget_frame (h : TuneWork F A) (s : State) : Frame F A s (endTarget s) := by
  unfold endTarget
  split
  · exact .refl s
  · dsimp only
    split
    · exact takeTarget_frame h _ s
    · exact ((dropJob_frame h s).trans (returnVoice_frame h _ _)).trans (finishTune_frame h _)

theorem logFault_frame (h : TuneWork F A) (k : FaultKind) (j : TuneJob) (fatal : Bool) (s : State) :
    Frame F A s (logFault k j fatal s) := by
  refine Frame.trans ?_ (publishStatus_frame h _)
  refine .setTunePage h.tune _ fun _ hP hp => ?_
  exact hP.writeWords _ (fun i hi => h.faults _ _ ⟨Nat.le_add_right _ _, Nat.add_lt_add_left hi _⟩) hp

theorem recordFailure_frame (h : TuneWork F A) (k : FaultKind) (j : TuneJob) (s : State) :
    Frame F A s (recordFailure k j s) := by
  unfold recordFailure
  split
  · exact .refl s
  · rename_i r _
    dsimp only
    have first := setTarget_frame h j.target
      { s.target j.target with
        health := if (k != .yielded && r.severityMask.getLsbD k.code.toNat) = true then .failed else .stale } s
    refine .ite (fun _ => ?_) fun _ => ?_
    · refine .ite (fun _ => ?_) fun _ => first
      exact ((first.trans (changeVoice_frame h.voices (h.area _) _ _)).trans (modReq_frame h _ _)).trans
        (setCause_frame h.ends.port _ _)
    · refine Frame.trans ?_ (setCause_frame h.ends.port _ _)
      refine Frame.trans ?_ (logFault_frame h k j _ _)
      refine .ite (fun _ => ?_) fun _ => first
      exact ((first.trans (changeVoice_frame h.voices (h.area _) _ _)).trans (modReq_frame h _ _)).trans
        (setCause_frame h.ends.port _ _)

theorem failTarget_frame (h : TuneWork F A) (k : FaultKind) (s : State) : Frame F A s (failTarget k s) := by
  unfold failTarget
  split
  · exact (recordFailure_frame h k _ s).trans (endTarget_frame h _)
  · exact .refl s

theorem failAttempt_frame (h : TuneWork F A) (k : FaultKind) (s : State) : Frame F A s (failAttempt k s) := by
  unfold failAttempt
  split
  · exact .ite (fun _ => (modJob_frame h _ s).trans (beginAttempt_frame h _)) fun _ => failTarget_frame h k s
  · exact .refl s

theorem noteCommitted_frame (h : TuneWork F A) (t : TargetIx) (s : State) : Frame F A s (noteCommitted t s) :=
  modReq_frame h _ s

theorem commitTable_frame (h : TuneWork F A) (j : TuneJob) (points : List Word) (s : State) :
    Frame F A s (commitTable j points s) :=
  ((setTarget_frame h j.target _ s).trans (noteCommitted_frame h _ _)).trans (endTarget_frame h _)

theorem pointDone_frame (h : TuneWork F A) (j : TuneJob) (k : Fin 9) (s : State) :
    Frame F A s (pointDone j k s) := by
  unfold pointDone
  refine .ite (fun _ => failTarget_frame h _ s) fun _ => ?_
  dsimp only
  split
  · exact (modJob_frame h _ s).trans (beginAttempt_frame h _)
  · exact commitTable_frame h j _ s

theorem stepCode_frame (h : TuneWork F A) (j : TuneJob) (k : Fin 9) (e : Int) (s : State) :
    Frame F A s (stepCode j k e s) :=
  .ite (fun _ => failTarget_frame h _ s) fun _ =>
    .ite (fun _ => failAttempt_frame h _ s) fun _ => (modJob_frame h _ s).trans (makeOffer_frame h _ _)

theorem beginConfirm_frame (h : TuneWork F A) (e : Int) (s : State) : Frame F A s (beginConfirm e s) :=
  (modJob_frame h _ s).trans (publishStatus_frame h _)

theorem evaluateFull_frame (h : TuneWork F A) (j : TuneJob) (k : Fin 9) (e : Int) (s : State) :
    Frame F A s (evaluateFull j k e s) := by
  unfold evaluateFull
  dsimp only
  split
  · exact .ite (fun _ => beginConfirm_frame h e s) fun _ => stepCode_frame h j k e s
  · exact .ite (fun _ => pointDone_frame h j k s) fun _ =>
      .ite (fun _ => failAttempt_frame h _ s) fun _ => stepCode_frame h j k e s

theorem evaluateQuick_frame (h : TuneWork F A) (j : TuneJob) (e : Int) (s : State) :
    Frame F A s (evaluateQuick j e s) :=
  .ite (fun _ => ((setTarget_frame h j.target _ s).trans (noteCommitted_frame h _ _)).trans (endTarget_frame h _))
    fun _ => failTarget_frame h _ s

theorem closeWindow_frame (h : TuneWork F A) (n : BitVec 32) (s : State) : Frame F A s (closeWindow n s) := by
  have first := (modJob_frame h (fun j => { j with windowOpen := false, lastCount := n }) s).trans
    (publishStatus_frame h _)
  unfold closeWindow
  dsimp only
  split
  · exact .refl s
  · split
    · exact first.trans (evaluateFull_frame h _ _ _ _)
    · exact first.trans (evaluateQuick_frame h _ _ _)

theorem yieldTarget_frame (h : TuneWork F A) (v : VoiceIx) (s : State) : Frame F A s (yieldTarget v s) := by
  unfold yieldTarget
  split
  · refine .ite (fun _ => .ite (fun _ => ?_) fun _ => ?_) fun _ => .refl s
    · exact (Frame.setTune h.tune _).trans (dropJob_frame h _)
    · exact ((recordFailure_frame h _ _ s).trans (dropJob_frame h _)).trans (finishTune_frame h _)
  · exact .refl s

theorem removeVoiceTargets_frame (h : TuneWork F A) (v : VoiceIx) (s : State) :
    Frame F A s (removeVoiceTargets v s) := by
  unfold removeVoiceTargets
  dsimp only
  split
  · exact .ite (fun _ => ((Frame.setTune h.tune _).trans (dropJob_frame h _)).trans (finishTune_frame h _))
      fun _ => ((Frame.setTune h.tune _).trans (publishStatus_frame h _)).trans (finishTune_frame h _)
  · exact ((Frame.setTune h.tune _).trans (publishStatus_frame h _)).trans (finishTune_frame h _)

theorem abortTune_frame (h : TuneWork F A) (s : State) : Frame F A s (abortTune s) := by
  unfold abortTune
  split
  · exact .refl s
  · dsimp only
    refine Frame.complete h.ends ?_ _ _
    refine Frame.trans ?_ (publishStatus_frame h _)
    refine Frame.trans (t := match s.tune.job with
      | some j => returnVoice (voiceOf j.target) (dropJob s)
      | none => s) ?_ (.setTune h.tune _)
    split
    · exact (dropJob_frame h s).trans (returnVoice_frame h _ _)
    · exact .refl s

/-! ### Note starts, steals and releases -/

theorem beginNote_frame (h : NoteWork F A) (st : VoiceState) (p : PartIx) (n : NoteInfo) (v : VoiceIx) (s : State) :
    Frame F A s (beginNote st p n v s) :=
  (clearPitch_frame h.voice.voices h.refresh v s).trans (modVoice_frame h.voice.voices v _ _)

theorem NoteWork.publish (h : NoteWork F A) (k : Frame F A s t) (v : VoiceIx) (old : Voice) :
    Frame F A s (t.publishVoice v old) :=
  k.trans (publishVoice_frame h.voice.voices (h.voice.area v) old t)

theorem NoteWork.change (h : NoteWork F A) (v : VoiceIx) (f : Voice → Voice) (s : State) :
    Frame F A s (s.changeVoice v f) :=
  changeVoice_frame h.voice.voices (h.voice.area v) f s

theorem NoteWork.mod (h : NoteWork F A) (k : Frame F A s t) (v : VoiceIx) (f : Voice → Voice) :
    Frame F A s (t.modVoice v f) :=
  k.trans (modVoice_frame h.voice.voices v f t)

theorem NoteWork.age (h : NoteWork F A) (v : VoiceIx) (s : State) : Frame F A s (takeAge v s) :=
  takeAge_frame h.voice.voices h.voice.sequence h.voice.area v s

theorem NoteWork.drop (h : NoteWork F A) (v : VoiceIx) (s : State) : Frame F A s (dropGate v s) :=
  dropGate_frame h.voice.voices h.voice.sequence h.voice.area v s

theorem startNote_frame (h : NoteWork F A) (p : PartIx) (n : NoteInfo) (v : VoiceIx) (s : State) :
    Frame F A s (startNote p n v s) :=
  h.publish (beginNote_frame h _ p n v s) v _

theorem endDamp_frame (h : NoteWork F A) (v : VoiceIx) (s : State) : Frame F A s (endDamp v s) := by
  unfold endDamp
  dsimp only
  split
  · exact .ite (fun _ => startNote_frame h _ _ v s) fun _ =>
      .ite (fun _ => h.publish (beginNote_frame h _ _ _ v s) v _) fun _ => h.change v _ s
  · exact h.change v _ s

theorem stealVoice_frame (h : NoteWork F A) (p : PartIx) (n : NoteInfo) (i k : Nat) (v : VoiceIx) (s : State) :
    Frame F A s (stealVoice p n i k v s) := by
  have first : ∀ f, Frame F A s (((takeAge v (dropGate v s)).modVoice v f).publishVoice v (s.voice v)) := fun f =>
    h.publish (h.mod ((h.drop v s).trans (h.age v _)) v f) v _
  exact .ite (fun _ => (first _).trans (endDamp_frame h v _)) fun _ => first _

theorem endWindow_frame (h : NoteWork F A) (v : VoiceIx) (s : State) : Frame F A s (endWindow v s) := h.change v _ s

theorem releaseVoice_frame (h : NoteWork F A) (p : PartIx) (v : VoiceIx) (s : State) :
    Frame F A s (releaseVoice p v s) := by
  have first : ∀ f, Frame F A s (((dropGate v s).modVoice v f).publishVoice v (s.voice v)) := fun f =>
    h.publish (h.mod (h.drop v s) v f) v _
  exact .ite (fun _ => (first _).trans (endWindow_frame h v _)) fun _ => first _

theorem releaseKey_frame (h : NoteWork F A) (p : PartIx) (v : VoiceIx) (s : State) :
    Frame F A s (releaseKey p v s) :=
  .ite (fun _ => h.change v _ s) fun _ => releaseVoice_frame h p v s

theorem setPendingOff_frame (h : NoteWork F A) (v : VoiceIx) (s : State) : Frame F A s (setPendingOff v s) :=
  h.change v _ s

/-! ### Allocation -/

theorem assignFresh_frame (h : NoteWork F A) (p : PartIx) (n : NoteInfo) (i k : Nat) (v : VoiceIx) (s : State) :
    Frame F A s (assignFresh p n i k v s) :=
  h.publish ((h.mod (h.age v s) v _).trans (beginNote_frame h _ p n v _)) v _

theorem assignVoice_frame (h : NoteWork F A) (p : PartIx) (n : NoteInfo) (i k : Nat) (v : VoiceIx) (s : State) :
    Frame F A s (assignVoice p n i k v s) := by
  unfold assignVoice
  split
  · exact assignFresh_frame h p n i k v s
  · exact (assignFresh_frame h p n i k v s).trans (yieldTarget_frame h.tune v _)
  all_goals first | exact stealVoice_frame h p n i k v s | exact .refl s

theorem assignAll_frame (h : NoteWork F A) (p : PartIx) (n : NoteInfo) (k : Nat) (vs : List VoiceIx) :
    ∀ (i : Nat) (s : State), Frame F A s (assignAll p n k i vs s) := by
  induction vs with
  | nil => exact fun _ s => .refl s
  | cons v vs ih => exact fun i s => (assignVoice_frame h p n i k v s).trans (ih _ _)

theorem dropNote_frame (h : NoteWork F A) (p : PartIx) (s : State) : Frame F A s (dropNote p s) :=
  (modPart_frame h.parts p _ s).trans (setCause_frame h.tune.ends.port _ _)

theorem allocate_frame (h : NoteWork F A) (p : PartIx) (n : NoteInfo) (s : State) :
    Frame F A s (allocate p n s) :=
  .ite (fun _ => dropNote_frame h p s) fun _ => assignAll_frame h p n _ _ _ s

/-! ### POLY and the mono modes -/

theorem reuseVoice_frame (h : NoteWork F A) (p : PartIx) (n : NoteInfo) (v : VoiceIx) (s : State) :
    Frame F A s (reuseVoice p n v s) := by
  refine h.publish ?_ v _
  split
  · exact (h.age v s).trans (beginNote_frame h _ p n v _)
  · exact h.mod ((h.age v s).trans (retrigger_frame h.voice.voices h.refresh v _)) v _
  · exact h.mod ((h.age v s).trans (retrigger_frame h.voice.voices h.refresh v _)) v _
  · exact h.mod (h.age v s) v _
  all_goals exact h.age v s

theorem polyNoteOn_frame (h : NoteWork F A) (p : PartIx) (n : NoteInfo) (s : State) :
    Frame F A s (polyNoteOn p n s) :=
  .ite (fun _ => allocate_frame h p n s) fun _ => .foldl (fun x v => reuseVoice_frame h p n v x) _ s

theorem polyNoteOff_frame (h : NoteWork F A) (p : PartIx) (n : Key) (s : State) :
    Frame F A s (polyNoteOff p n s) :=
  .foldl (fun x v => .ite (fun _ => releaseKey_frame h p v x) fun _ =>
    .ite (fun _ => setPendingOff_frame h v x) fun _ => .refl x) _ s

theorem followPriority_frame (h : NoteWork F A) (p : PartIx) (n : Key) (entry : Option NoteInfo) (connected : Bool)
    (v : VoiceIx) (s : State) : Frame F A s (followPriority p n entry connected v s) := by
  unfold followPriority
  dsimp only
  split
  · refine .ite (fun _ => h.change v _ s) fun _ => ?_
    exact h.publish (h.mod (retrigger_frame h.voice.voices h.refresh v s) v _) v _
  · exact h.publish (h.mod (retrigger_frame h.voice.voices h.refresh v s) v _) v _
  · exact h.change v _ s
  all_goals exact .refl s

theorem followList_frame (h : NoteWork F A) (p : PartIx) (before : List Key) (entry : Option NoteInfo) (s : State) :
    Frame F A s (followList p before entry s) := by
  unfold followList
  dsimp only
  split
  · exact .refl s
  · exact .ite (fun _ => .refl s) fun _ => .foldl (fun x v => followPriority_frame h p _ _ _ v x) _ s

theorem monoNoteOn_frame (h : NoteWork F A) (p : PartIx) (n : NoteInfo) (wasIdle : Bool) (s : State) :
    Frame F A s (monoNoteOn p n wasIdle s) := by
  have first := modPart_frame h.parts (A := A) p (fun x => { x with held := heldInsert n.note x.held }) s
  exact .ite (fun _ => first.trans (allocate_frame h p _ _)) fun _ => first.trans (followList_frame h p _ _ _)

theorem monoNoteOff_frame (h : NoteWork F A) (p : PartIx) (n : Key) (s : State) :
    Frame F A s (monoNoteOff p n s) := by
  have first := modPart_frame h.parts (A := A) p (fun x => { x with held := heldRemove n x.held }) s
  refine .ite (fun _ => .ite (fun _ => first.trans (.foldl (fun x v => ?_) _ _)) fun _ =>
    first.trans (followList_frame h p _ _ _)) fun _ => .refl s
  split
  · exact releaseKey_frame h p v x
  · exact setPendingOff_frame h v x
  all_goals exact .refl x

theorem latchMode_frame (h : NoteWork F A) (p : PartIx) (s : State) : Frame F A s (latchMode p s) := by
  unfold latchMode
  exact modPart_frame h.parts p _ s

/-! ### Entries on one part -/

/-- An entry on part `p` keeps the frames of what it does that admit the part's record. -/
theorem onPart_frame (h : F.parts = true) {p : PartIx} (hA : ∀ w, partArea p w → A w) {f : State → State}
    (hf : Frame F A s (f s)) : Frame F A s (onPart p f s) :=
  hf.trans (publishPart_frame h hA _ _)

theorem playNote_frame (h : NoteWork F A) (p : PartIx) (n : NoteInfo) (s : State) :
    Frame F A s (playNote p n s) := by
  have first : Frame F A s (if s.idlePart p then latchMode p s else s) :=
    .ite (fun _ => latchMode_frame h p s) fun _ => .refl s
  exact .ite (fun _ => first.trans (polyNoteOn_frame h p n _)) fun _ => first.trans (monoNoteOn_frame h p n _ _)

theorem stopNote_frame (h : NoteWork F A) (p : PartIx) (n : Key) (s : State) : Frame F A s (stopNote p n s) :=
  .ite (fun _ => polyNoteOff_frame h p n s) fun _ => monoNoteOff_frame h p n s

theorem setSustain_frame (h : NoteWork F A) (on : Bool) (p : PartIx) (s : State) :
    Frame F A s (setSustain on p s) := by
  have first := modPart_frame h.parts (A := A) p (fun x => { x with sustain := on }) s
  exact .ite (fun _ => first.trans (.foldl (fun x v => .ite (fun _ => releaseVoice_frame h p v x) fun _ => .refl x) _ _))
    fun _ => first

theorem setBend_frame (h : F.parts = true) (b : BitVec 14) (p : PartIx) (s : State) : Frame F A s (setBend b p s) :=
  modPart_frame h p _ s

theorem VoiceWork.cut (h : VoiceWork F A) (out : Bool) (v : VoiceIx) (s : State) : Frame F A s (cutVoice out v s) :=
  cutVoice_frame h.voices h.sequence h.area out v s

theorem allOffPart_frame (h : VoiceWork F A) (hp : F.parts = true) (p : PartIx) (s : State) :
    Frame F A s (allOffPart p s) :=
  (Frame.foldl (fun x v => h.cut false v x) _ s).trans (modPart_frame hp p _ _)

theorem stopAllocator_frame (h : VoiceWork F A) (hp : F.parts = true) (hA : ∀ p w, partArea p w → A w) (s : State) :
    Frame F A s (stopAllocator s) :=
  (Frame.forVoices (fun v x => h.cut false v x) s).trans
    (.foldl (fun x p => changePart_frame hp (hA p) _ x) _ _)

end Sys2Proof.Machine
end

