-- ==== Sys2Proof/Laws/Panels.lean ====
section
/-! SUPPORT. The frames of the patch engine, the control router, the refresh engine, the panel scanner and
the sweeper: for every footprint and area that admit their work, each operation of
Sys2Proof/Machine/PatchOps.lean, RefreshOps.lean, PanelOps.lean and SweepOps.lean keeps the frame. -/

namespace Sys2Proof.Machine

variable {F : Foot} {A : Nat → Prop} {s t u : State}

/-! ### What the work of an engine needs -/

/-- The frame admits the work of the patch engine. -/
structure PatchWork (F : Foot) (A : Nat → Prop) : Prop where
  patch : F.patch = true
  parts : F.parts = true
  area : ∀ p w, partArea p w → A w
  ends : Completes F A

/-- The frame admits a change of any pickup state (R174). -/
structure PickupWork (F : Foot) (A : Nat → Prop) : Prop where
  panel : F.panel = true
  words : ∀ i, A (potBase i + 3)

/-- The frame admits the hand-offs of the router (R169). -/
structure RouterWork (F : Foot) (A : Nat → Prop) : Prop where
  note : NoteWork F A
  patch : PatchWork F A
  pickup : PickupWork F A

/-- The frame admits the work of the refresh engine and of the receivers of its events. -/
structure RefreshWork (F : Foot) (A : Nat → Prop) : Prop where
  refresh : F.refresh = true
  passTime : A (headerBase + 10)
  overruns : A (headerBase + 11)
  tune : TuneWork F A

/-- The words 0 to 2 of the record of pot `i`. -/
def potArea (i : PotIx) (w : Nat) : Prop := potBase i ≤ w ∧ w < potBase i + 4

/-- The words of the record of switch `i`. -/
def switchArea (i : SwitchIx) (w : Nat) : Prop := switchBase i ≤ w ∧ w < switchBase i + 2

/-- The frame admits the work of the panel scanner. -/
structure PanelWork (F : Foot) (A : Nat → Prop) : Prop where
  panel : F.panel = true
  port : F.port = true
  pots : ∀ i w, potArea i w → A w
  switches : ∀ i w, switchArea i w → A w

/-- The frame admits the work of the sweeper on the note stream. -/
structure SweepWork (F : Foot) (A : Nat → Prop) : Prop where
  sweeper : F.sweeper = true
  header : F.header = true
  port : F.port = true
  taken : A (headerBase + 5)
  rejected : A (headerBase + 6)
  overruns : A (headerBase + 7)

/-! ### The patch engine -/

theorem setLive_frame (h : F.patch = true) (p : PartIx) (i : ParamIx) (v : Word) (s : State) :
    Frame F A s (setLive p i v s) :=
  .setPatch h _

theorem setContext_frame (h : F.patch = true) (p : PartIx) (c : Option Context) (s : State) :
    Frame F A s (setContext p c s) :=
  .setPatch h _

theorem modRecall_frame (h : F.patch = true) (id : Nat) (f : RecallReq → RecallReq) (s : State) :
    Frame F A s (modRecall id f s) :=
  .setPatch h _

theorem releaseRecall_frame (h : F.patch = true) (id : Nat) (s : State) : Frame F A s (releaseRecall id s) :=
  .setPatch h _

theorem PatchWork.change (h : PatchWork F A) (k : Frame F A s t) (p : PartIx) (f : Part → Part) :
    Frame F A s (t.changePart p f) :=
  k.trans (changePart_frame h.parts (h.area p) f t)

theorem finishRecall_frame (h : PatchWork F A) (id : Nat) (s : State) : Frame F A s (finishRecall id s) := by
  refine .ite (fun _ => .refl s) fun _ => ?_
  split
  · exact (releaseRecall_frame h.patch id s).complete h.ends _ _
  · exact .refl s

theorem cancelLane_frame (h : PatchWork F A) (p : PartIx) (i : ParamIx) (s : State) :
    Frame F A s (cancelLane p i s) := by
  unfold cancelLane
  split
  · exact .refl s
  · rename_i c _
    have first := modRecall_frame (A := A) h.patch c.owner (fun r => { r with lanesCancelled := r.lanesCancelled + 1 }) s
    refine .ite (fun _ => .ite (fun _ => ?_) fun _ => ?_) fun _ => .refl s
    · exact (h.change (first.trans (setContext_frame h.patch _ _ _)) p _).trans (finishRecall_frame h _ _)
    · exact first.trans (setContext_frame h.patch _ _ _)

theorem stepLane_frame (h : F.patch = true) (p : PartIx) (phi : Nat) (l : Lane) (s : State) :
    Frame F A s (stepLane p phi l s) :=
  .ite (fun _ => .refl s) fun _ => setLive_frame h p _ _ s

theorem stepContext_frame (h : PatchWork F A) (p : PartIx) (s : State) : Frame F A s (stepContext p s) := by
  unfold stepContext
  split
  · exact .refl s
  · rename_i c _
    have first := Frame.foldl (fun x l => stepLane_frame (A := A) h.patch p
      (phase (s.time - c.startTime).toNat c.morphTime) l x) c.lanes s
    refine .ite (fun _ => ?_) fun _ => h.change first p _
    exact (h.change (first.trans (setContext_frame h.patch _ _ _)) p _).trans (finishRecall_frame h _ _)

theorem stopPatch_frame (h : PatchWork F A) (s : State) : Frame F A s (stopPatch s) := by
  refine Frame.trans (.foldl (fun x p => ?_) _ _) (.foldl (fun x r => ?_) _ _)
  · exact h.change (setContext_frame h.patch p none x) p _
  · exact (releaseRecall_frame h.patch _ x).complete h.ends _ _

theorem supersede_frame (h : PatchWork F A) (p : PartIx) (s : State) : Frame F A s (supersede p s) := by
  unfold supersede
  split
  · exact .refl s
  · exact ((setContext_frame h.patch p none s).trans (modRecall_frame h.patch _ _ _)).trans
      (finishRecall_frame h _ _)

/-! ### Pickup -/

theorem setPickup_frame (h : PickupWork F A) (i : PotIx) (k : Pickup) (s : State) :
    Frame F A s (setPickup i k s) :=
  .ite (fun _ => .refl s) fun _ => (Frame.setPanel h.panel _).trans (.writeWord (h.words i) _)

theorem judgePot_frame (h : PickupWork F A) (i : PotIx) (s : State) : Frame F A s (judgePot i s) :=
  setPickup_frame h i _ s

theorem judgePots_frame (h : PickupWork F A) (f : PotDesc → Bool) (s : State) : Frame F A s (judgePots f s) :=
  .foldl (fun x i => .ite (fun _ => judgePot_frame h i x) fun _ => .refl x) _ s

theorem reportRecall_frame (h : PickupWork F A) (p : PartIx) (s : State) : Frame F A s (reportRecall p s) :=
  judgePots_frame h _ s

theorem reportWrite_frame (h : PickupWork F A) (p : PartIx) (i : ParamIx) (s : State) :
    Frame F A s (reportWrite p i s) :=
  judgePots_frame h _ s

theorem recallPart_frame (h : PatchWork F A) (k : PickupWork F A) (r : Inflight) (time : Nat)
    (copy : Vector Word 128) (p : PartIx) (s : State) : Frame F A s (recallPart r time copy p s) := by
  have first := supersede_frame h p s
  refine h.change (Frame.trans ?_ (reportRecall_frame k p _)) p _
  exact .ite (fun _ => first.trans (.foldl (fun x l => setLive_frame h.patch p _ _ x) _ _)) fun _ =>
    .ite (fun _ => first) fun _ => first.trans (setContext_frame h.patch _ _ _)

/-! ### The router -/

theorem routerWrite_frame (h : PatchWork F A) (p : PartIx) (i : ParamIx) (v : Word) (s : State) :
    Frame F A s (routerWrite p i v s) :=
  h.change ((setLive_frame h.patch p i v s).trans (cancelLane_frame h p i _)) p _

theorem routerWrites_frame (h : PatchWork F A) (m : BitVec 4) (i : ParamIx) (v : Word) (s : State) :
    Frame F A s (routerWrites m i v s) :=
  .foldl (fun x p => routerWrite_frame h p i v x) _ s

theorem handPot_frame (h : RouterWork F A) (i : PotIx) (prev now : Word) (s : State) :
    Frame F A s (handPot i prev now s) := by
  unfold handPot
  dsimp only
  split
  · exact .refl s
  · exact .refl s
  · exact .foldl (fun x p => onPart_frame h.patch.parts (h.patch.area p) (setBend_frame h.patch.parts _ p x)) _ s
  · split
    · exact routerWrites_frame h.patch _ _ _ s
    · exact .ite (fun _ => (setPickup_frame h.pickup i _ s).trans (routerWrites_frame h.patch _ _ _ _))
        fun _ => .refl s
    · exact .refl s

theorem handSwitch_frame (h : RouterWork F A) (i : SwitchIx) (pressed : Bool) (s : State) :
    Frame F A s (handSwitch i pressed s) := by
  unfold handSwitch
  dsimp only
  split
  · exact .refl s
  · exact .refl s
  · exact .ite (fun _ => .foldl (fun x p => routerWrite_frame h.patch p _ _ x) _ s) fun _ => .refl s
  · exact routerWrites_frame h.patch _ _ _ s
  · exact .ite (fun _ => .foldl (fun x p => routerWrite_frame h.patch p _ _ x) _ s) fun _ => .refl s
  · exact .foldl (fun x p => onPart_frame h.patch.parts (h.patch.area p) (setSustain_frame h.note _ p x)) _ s

/-! ### The refresh engine -/

theorem startTurn_frame (h : F.refresh = true) (i : Nat) (c : CvSlot) (s : State) :
    Frame F A s (startTurn i c s) :=
  .setRefresh h _

theorem startPass_frame (h : F.refresh = true) (s : State) : Frame F A s (startPass s) := by
  unfold startPass
  split
  · exact .refl s
  · exact (Frame.setRefresh h _).trans (startTurn_frame h _ _ _)

theorem setLastPass_frame (h : F.header = true) (hA : A (headerBase + 10)) (w : Word) (s : State) :
    Frame F A s (setLastPass w s) :=
  .setHeaderPage h _ fun _ hP hp => hP _ _ _ hA hp

@[simp] theorem restRefresh_lines (s : State) : (restRefresh s).refresh.lines = restLines := rfl
@[simp] theorem restRefresh_address (s : State) : (restRefresh s).refresh.address = 0#8 := rfl
@[simp] theorem restRefresh_turn (s : State) : (restRefresh s).refresh.turn = none := rfl
@[simp] theorem startTurn_lines (i : Nat) (c : CvSlot) (s : State) :
    (startTurn i c s).refresh.lines = dwellLines (slotCode s c).1 := rfl
@[simp] theorem startTurn_address (i : Nat) (c : CvSlot) (s : State) :
    (startTurn i c s).refresh.address = c.address := rfl
@[simp] theorem startTurn_dac (i : Nat) (c : CvSlot) (s : State) :
    (startTurn i c s).refresh.dac = some (slotCode s c).1 := rfl

theorem restRefresh_frame (h : F.refresh = true) (s : State) : Frame F A s (restRefresh s) := .setRefresh h _

theorem emptyWrittenSets_frame (h : RefreshWork F A) (s : State) : Frame F A s (emptyWrittenSets s) :=
  .forVoices (fun v x => changeVoice_frame h.tune.voices (h.tune.area v) _ x) s

theorem RefreshWork.pass (h : RefreshWork F A) (k : Frame F A s t) (w : Word) : Frame F A s (setLastPass w t) :=
  k.trans (setLastPass_frame h.tune.ends.header h.passTime w t)

theorem fitTrialCode_frame (h : TuneWork F A) (s : State) : Frame F A s (fitTrialCode s) := by
  unfold fitTrialCode
  split
  · split
    · exact (modJob_frame h _ s).trans (publishStatus_frame h _)
    · exact .refl s
  · exact .refl s

theorem installMap_frame (h : RefreshWork F A) (m : MapLoad) (s : State) : Frame F A s (installMap m s) := by
  have first : ∀ r, Frame F A s (fitTrialCode (emptyWrittenSets { s with refresh := r })) := fun r =>
    ((Frame.setRefresh h.refresh r).trans (emptyWrittenSets_frame h _)).trans (fitTrialCode_frame h.tune _)
  exact .ite (fun _ => h.pass ((first _).trans (restRefresh_frame h.refresh _)) _) fun _ =>
    (first _).trans (startPass_frame h.refresh _)

theorem loadMap_frame (h : RefreshWork F A) (m : MapLoad) (s : State) : Frame F A s (loadMap m s) := by
  unfold loadMap
  split
  · exact installMap_frame h m s
  · exact .setRefresh h.refresh _

theorem endPass_frame (h : RefreshWork F A) (s : State) : Frame F A s (endPass s) := by
  have first := h.pass (.refl s) (wordOf (passTime s.refresh.map))
  unfold endPass
  dsimp only
  split
  · exact first.trans (installMap_frame h _ _)
  · exact .ite (fun _ => first.trans (startPass_frame h.refresh _)) fun _ =>
      (first.trans (.setRefresh h.refresh _)).trans (restRefresh_frame h.refresh _)

theorem expirePeriod_frame (h : RefreshWork F A) (s : State) : Frame F A s (expirePeriod s) := by
  unfold expirePeriod
  split
  · exact .refl s
  · exact .refl s
  · refine .ite (fun _ => startPass_frame h.refresh s) fun _ =>
      .ite (fun _ => .setRefresh h.refresh _) fun _ => Frame.trans ?_ (setCause_frame h.tune.ends.port _ _)
    have header := Frame.setHeaderPage (s := s) (F := F) (A := A) h.tune.ends.header
      { s.header with refreshOverruns := satInc s.header.refreshOverruns }
      (p := Page.writeWord s.page (headerBase + 11) (satInc s.header.refreshOverruns))
      fun _ hP hp => hP _ _ _ h.overruns hp
    exact header.trans (.setRefresh h.refresh _)

theorem strobe_frame (h : F.refresh = true) (x : Turn) (s : State) : Frame F A s (strobe x s) := .setRefresh h _

theorem gateEvent_frame (h : F.voices = true) (hA : ∀ v w, voiceArea v w → A w) (x : Turn) (s : State) :
    Frame F A s (gateEvent x s) := by
  unfold gateEvent
  split
  · exact .ite (fun _ => changeVoice_frame h (hA _) _ s) fun _ => .refl s
  · exact .refl s

theorem tuneEvent_frame (h : TuneWork F A) (x : Turn) (s : State) : Frame F A s (tuneEvent x s) := by
  unfold tuneEvent
  split
  · exact .ite (fun _ => (Frame.setTune h.tune _).trans (publishStatus_frame h _)) fun _ => .refl s
  · exact .refl s

theorem endTurn_frame (h : RefreshWork F A) (s : State) : Frame F A s (endTurn s) := by
  unfold endTurn
  split
  · exact .refl s
  · rename_i x _
    have first := ((strobe_frame (A := A) h.refresh x s).trans
      (gateEvent_frame h.tune.voices h.tune.area x _)).trans (tuneEvent_frame h.tune x _)
    dsimp only
    split
    · exact first.trans (startTurn_frame h.refresh _ _ _)
    · exact first.trans (endPass_frame h _)

/-! ### The panel scanner -/

theorem convertFrom_frame (h : F.panel = true) (i : Nat) (s : State) : Frame F A s (convertFrom i s) := by
  unfold convertFrom
  split <;> exact .setPanel h _

theorem startPotPass_frame (h : F.panel = true) (s : State) : Frame F A s (startPotPass s) :=
  (Frame.setPanel h _).trans (convertFrom_frame h _ _)

theorem installPeriod_frame (h : F.panel = true) (c : Fin 4) (s : State) : Frame F A s (installPeriod c s) :=
  (Frame.setPanel h _).trans (startPotPass_frame h _)

theorem loadPeriod_frame (h : F.panel = true) (c : Fin 4) (s : State) : Frame F A s (loadPeriod c s) := by
  unfold loadPeriod
  split
  · exact installPeriod_frame h c s
  · exact .setPanel h _

theorem advancePass_frame (h : F.panel = true) (i : Nat) (s : State) : Frame F A s (advancePass i s) := by
  have first := convertFrom_frame (A := A) h i s
  unfold advancePass
  split
  · exact first
  · dsimp only
    split
    · exact first.trans (installPeriod_frame h _ _)
    · exact .ite (fun _ => first.trans (startPotPass_frame h _)) fun _ => first

theorem expirePotTimer_frame (h : F.panel = true) (s : State) : Frame F A s (expirePotTimer s) := by
  unfold expirePotTimer
  split
  · exact .refl s
  · exact .refl s
  · exact .ite (fun _ => startPotPass_frame h s) fun _ => .setPanel h _

theorem setPot_frame (h : F.panel = true) (i : PotIx) (x : Pot) (s : State) : Frame F A s (s.setPot i x) :=
  .setPanel h _

theorem publishPot_frame {i : PotIx} (hA : ∀ w, potArea i w → A w) (s : State) : Frame F A s (publishPot i s) :=
  .setPage _ fun _ hP hp => by
    have near : ∀ j, j < 4 → A (potBase i + j) := fun j hj => hA _ ⟨by omega, by omega⟩
    exact hP _ _ _ (near 2 (by omega))
      (hP _ _ _ (near 3 (by omega)) (hP.writeWords _ (fun j (hj : j < 2) => near j (by omega)) hp))

theorem acceptPot_frame (h : PanelWork F A) (k : RouterWork F A) (i : PotIx) (m : BitVec 12) (s : State) :
    Frame F A s (acceptPot i m s) := by
  have first : ∀ x, Frame F A s (setCause causeControl (publishPot i (s.setPot i x))) := fun x =>
    ((setPot_frame h.panel i x s).trans (publishPot_frame (h.pots i) _)).trans (setCause_frame h.port _ _)
  exact .ite (fun _ => (first _).trans (handPot_frame k i _ _ _)) fun _ => first _

theorem takeSample_frame (h : PanelWork F A) (k : RouterWork F A) (i : PotIx) (d : PotDesc) (x : BitVec 12)
    (s : State) : Frame F A s (takeSample i d x s) := by
  refine .ite (fun _ => .ite (fun _ => ?_) fun _ => setPot_frame h.panel i _ s) fun _ => ?_
  · exact (setPot_frame h.panel i _ s).trans (acceptPot_frame h k i _ _)
  · exact (setPot_frame h.panel i _ s).trans (publishPot_frame (h.pots i) _)

theorem emptyPot_frame (h : PanelWork F A) (i : PotIx) (s : State) : Frame F A s (emptyPot i s) :=
  (setPot_frame h.panel i _ s).trans (publishPot_frame (h.pots i) _)

theorem finishConversion_frame (h : PanelWork F A) (k : RouterWork F A) (x : BitVec 12) (s : State) :
    Frame F A s (finishConversion x s) := by
  unfold finishConversion
  split
  · exact .refl s
  · rename_i c _
    have first := takeSample_frame h k c.pot c.desc x s
    refine Frame.trans ?_ (advancePass_frame h.panel _ _)
    exact .ite (fun _ => first.trans (emptyPot_frame h _ _)) fun _ => first

theorem switchWords_frame (h : PanelWork F A) (i : SwitchIx) (x : Switch) (s : State) :
    Frame F A s (s.writeWords (switchBase i) (switchWords x)) :=
  .writeWords _ fun _ hj => h.switches i _ ⟨Nat.le_add_right _ _, Nat.add_lt_add_left hj _⟩

theorem setSwitch_frame (h : PanelWork F A) (i : SwitchIx) (x : Switch) (s : State) :
    Frame F A s (setSwitch i x s) :=
  .ite (fun _ => .setPanel h.panel _) fun _ => (Frame.setPanel h.panel _).trans (switchWords_frame h i x _)

theorem sampleSwitch_frame (h : PanelWork F A) (k : RouterWork F A) (i : SwitchIx) (raw : Bool) (s : State) :
    Frame F A s (sampleSwitch i raw s) := by
  unfold sampleSwitch
  refine .ite (fun _ => setSwitch_frame h i _ s) fun _ => .ite (fun _ => ?_) fun _ => setSwitch_frame h i _ s
  dsimp only
  have first : ∀ x (b : Prop) [Decidable b],
      Frame F A s (if b then setCause causeSwitch (setSwitch i x s) else setSwitch i x s) := fun x b _ =>
    .ite (fun _ => (setSwitch_frame h i x s).trans (setCause_frame h.port _ _)) fun _ => setSwitch_frame h i x s
  exact .ite (fun _ => (first _ _).trans (handSwitch_frame k i _ _)) fun _ => first _ _

theorem sampleRow_frame (h : PanelWork F A) (k : RouterWork F A) (cols : Byte) (s : State) :
    Frame F A s (sampleRow cols s) :=
  (Frame.foldl (fun x _ => sampleSwitch_frame h k _ _ x) _ s).trans (.setPanel h.panel _)

theorem turnLedRow_frame (h : F.panel = true) (s : State) : Frame F A s (turnLedRow s) := .setPanel h _

theorem scanPotInstalled_frame (h : PanelWork F A) (i : PotIx) (old new : PotDesc) (s : State) :
    Frame F A s (scanPotInstalled i old new s) := by
  refine .ite (fun _ => ?_) fun _ => .refl s
  split
  · exact .ite (fun _ => .setPanel h.panel _) fun _ => emptyPot_frame h i s
  · exact emptyPot_frame h i s

theorem scanSwitchInstalled_frame (h : PanelWork F A) (i : SwitchIx) (old new : SwitchDesc) (s : State) :
    Frame F A s (scanSwitchInstalled i old new s) :=
  .ite (fun _ => .ite (fun _ => (setSwitch_frame h i _ s).trans (switchWords_frame h i _ _)) fun _ =>
    setSwitch_frame h i _ s) fun _ => .refl s

theorem routePickup_frame (h : PickupWork F A) (i : PotIx) (s : State) : Frame F A s (routePickup i s) :=
  .ite (fun _ => judgePot_frame h i s) fun _ => setPickup_frame h i _ s

theorem installDesc_frame (h : PanelWork F A) (hr : F.router = true) (d : AnyDesc) (s : State) :
    Frame F A s (installDesc d s) := by
  unfold installDesc
  split
  · exact (Frame.setRouter hr _).trans (scanPotInstalled_frame h _ _ _ _)
  · exact (Frame.setRouter hr _).trans (scanSwitchInstalled_frame h _ _ _ _)
  · exact .setRouter hr _

/-! ### The sweeper -/

theorem endSweep_frame (h : F.sweeper = true) (s : State) : Frame F A s (endSweep s) := .setSweeper h _

theorem goOnWithSlots_frame (h : F.sweeper = true) (order : List SlotIx) (s : State) :
    Frame F A s (goOnWithSlots order s) :=
  .ite (fun _ => endSweep_frame h s) fun _ => .setSweeper h _

theorem findSlots_frame (h : F.sweeper = true) (s : State) : Frame F A s (findSlots s) :=
  goOnWithSlots_frame h _ s

theorem setTaken_frame (h : SweepWork F A) (w : Word) (s : State) : Frame F A s (setTaken w s) :=
  .setSweeperPage h.sweeper _ fun _ hP hp => hP _ _ _ h.taken hp

theorem overrunStream_frame (h : SweepWork F A) (posted : Word) (s : State) :
    Frame F A s (overrunStream posted s) := by
  refine Frame.trans ?_ (setCause_frame h.port _ _)
  exact (setTaken_frame h posted s).trans (.setHeaderPage h.header _ fun _ hP hp => hP _ _ _ h.overruns hp)

theorem beginSweep_frame (h : SweepWork F A) (s : State) : Frame F A s (beginSweep s) := by
  have first := Frame.setSweeper (A := A) (s := s) h.sweeper { s.sweeper with pending := false }
  exact .ite (fun _ => (first.trans (overrunStream_frame h _ _)).trans (findSlots_frame h.sweeper _)) fun _ =>
    .ite (fun _ => first.trans (findSlots_frame h.sweeper _)) fun _ => first.trans (.setSweeper h.sweeper _)

theorem requestSweep_frame (h : SweepWork F A) (s : State) : Frame F A s (requestSweep s) := by
  unfold requestSweep
  split
  · exact beginSweep_frame h s
  all_goals exact .setSweeper h.sweeper _

theorem passEntry_frame (h : SweepWork F A) (s : State) : Frame F A s (passEntry s) := by
  unfold passEntry
  split
  · exact .ite (fun _ => (setTaken_frame h _ s).trans (findSlots_frame h.sweeper _)) fun _ => .setSweeper h.sweeper _
  all_goals exact .refl s

theorem rejectEntry_frame (h : SweepWork F A) (s : State) : Frame F A s (rejectEntry s) := by
  refine Frame.trans ?_ (setCause_frame h.port _ _)
  exact .setHeaderPage h.header _ fun _ hP hp => hP _ _ _ h.rejected hp

theorem takeEntry_frame (h : SweepWork F A) (isKind : Byte → Bool) {apply : StreamEntry → State → State}
    (ha : ∀ e x, Frame F A x (apply e x)) (s : State) : Frame F A s (takeEntry isKind apply s) := by
  unfold takeEntry
  split
  · refine .ite (fun _ => Frame.trans ?_ (passEntry_frame h _)) fun _ => .refl s
    exact .ite (fun _ => ha _ s) fun _ => .refl s
  · exact .refl s

theorem applyParts_frame (h : SweepWork F A) (hp : F.parts = true) (hA : ∀ p w, partArea p w → A w)
    (parts : Option (List PartIx)) {f : PartIx → State → State} (hf : ∀ p x, Frame F A x (f p x)) (s : State) :
    Frame F A s (applyParts parts f s) := by
  unfold applyParts
  split
  · exact .foldl (fun x p => onPart_frame hp (hA p) (hf p x)) _ s
  · exact rejectEntry_frame h s

theorem passOver_frame (h : F.sweeper = true) (s : State) : Frame F A s (passOver s) := by
  unfold passOver
  split
  · exact goOnWithSlots_frame h _ s
  all_goals exact .refl s

theorem markTaken_frame (h : F.sweeper = true) (r : Inflight) (hA : A (slotBase r.slot)) (s : State) :
    Frame F A s (markTaken r s) :=
  .setSweeperPage h _ fun _ hP hp => hP _ _ _ hA hp

theorem carryOut_frame (h : Completes F A) (cls : ReqClass) {body : ReqBody}
    (hb : ∀ r args x, Frame F A x (body r args x).1) (r : Inflight) (args : List Word) (s : State) :
    Frame F A s (carryOut cls body r args s) := by
  unfold carryOut
  refine .ite (fun _ => ?_) fun _ => (Frame.refl s).complete h _ _
  have first := hb r args s
  split
  · rename_i e
    rw [e] at first
    exact first.complete h _ _
  · rename_i e
    rw [e] at first
    exact first

/-- The take of a request keeps the frames of its body that admit its completion. -/
theorem takeRequest_frame (h : Completes F A) (isKind : Word → Bool) (cls : ReqClass) {body : ReqBody}
    (hb : ∀ r args x, Frame F A x (body r args x).1) (s : State) :
    Frame F A s (takeRequest isKind cls body s) := by
  have first := passOver_frame (A := A) h.sweeper s
  unfold takeRequest
  dsimp only
  split
  · rename_i i _ _
    refine .ite (fun _ => first.trans (Frame.trans ?_ (goOnWithSlots_frame h.sweeper _ _))) fun _ => first
    have hA : A (slotBase (newRequest (passOver s) i).slot) :=
      h.slots i _ ⟨Nat.le_refl _, Nat.lt_add_of_pos_right (Nat.succ_pos 15)⟩
    refine Frame.trans (markTaken_frame h.sweeper _ hA _) ?_
    exact carryOut_frame h cls hb _ _ _
  all_goals exact first

end Sys2Proof.Machine
end

