-- ==== Sys2Proof/Laws/Commands.lean ====
section
/-! SUPPORT. What a command answers in each run state, and the frames of what the commands and the request
bodies do: with `whenUp_frame`, `takeEntry_frame` and `takeRequest_frame` they give the frame of each
command. -/

namespace Sys2Proof.Machine

variable {F : Foot} {A : Nat → Prop} {s t : State}

/-! ### Answers -/

/-- In INIT such a command has no effect. -/
theorem whenUp_init (h : s.port.run = .init) (f : State → State) : whenUp s f = .next s := by
  unfold whenUp
  rw [h]

/-- In SETUP and RUN such a command acts. -/
theorem whenUp_up (h : s.port.run ≠ .init) (f : State → State) : whenUp s f = .next (f s) := by
  unfold whenUp
  cases e : s.port.run
  · exact absurd e h
  · rfl
  · rfl

/-- Whatever the run state, such a command answers a next state, within the frame of what it does. -/
theorem whenUp_frame {f : State → State} (hf : Frame F A s (f s)) :
    ∃ t, whenUp s f = .next t ∧ Frame F A s t := by
  by_cases h : s.port.run = .init
  · exact ⟨s, whenUp_init h f, .refl s⟩
  · exact ⟨f s, whenUp_up h f, hf⟩

/-! ### The host's cycles and the run state -/

theorem releaseFirstFault_frame (h : F.tune = true) (hA : ∀ w, statusArea w → A w) (s : State) :
    Frame F A s (releaseFirstFault s) := by
  have first := Frame.setTune (A := A) (s := s) h { s.tune with firstFault := none }
  refine .ite (fun _ => first.trans ?_) fun _ => first.trans ?_
  · exact .writeWords _ fun i hi => hA _ ⟨Nat.le_add_right _ _, by simpa using hi⟩
  · refine .writeWords _ fun i hi => hA _ ?_
    simp only [List.length_take, List.length_drop, statusWords_length] at hi
    exact ⟨by omega, by omega⟩

theorem clearAttention_frame (hp : F.port = true) (h : F.tune = true) (hA : ∀ w, statusArea w → A w) (v : Word)
    (s : State) : Frame F A s (clearAttention v s) :=
  .ite (fun _ => (Frame.setPort hp _).trans (releaseFirstFault_frame h hA _)) fun _ => .setPort hp _

theorem startPending_frame (h : SweepWork F A) (s : State) : Frame F A s (startPending s) :=
  .ite (fun _ => (passOver_frame h.sweeper s).trans (beginSweep_frame h _)) fun _ => passOver_frame h.sweeper s

theorem setRun_frame (h : F.port = true) (hA : A (headerBase + 1)) (r : RunState) (s : State) :
    Frame F A s (s.setRun r) :=
  .setPortPage h _ fun _ hP hp => hP _ _ _ hA hp

theorem setSetupError_frame (h : F.header = true) (h2 : A (headerBase + 2)) (h3 : A (headerBase + 3)) (e : SetupError)
    (detail : Word) (s : State) : Frame F A s (s.setSetupError e detail) := by
  refine .setHeaderPage h _ fun _ hP hp => hP.writeWords _ (fun i hi => ?_) hp
  match i, hi with
  | 0, _ => exact h2
  | 1, _ => exact h3

theorem enterRun_frame (h : F.port = true) (hv : F.voices = true) (hA : A (headerBase + 1))
    (ha : ∀ v w, voiceArea v w → A w) (s : State) : Frame F A s (enterRun s) :=
  ((setRun_frame h hA _ s).trans (setCause_frame h _ _)).trans
    (.forVoices (fun v x => changeVoice_frame hv (ha v) _ x) _)

theorem leaveRun_frame (hA : A (headerBase + 1)) (hv : VoiceWork F A) (ht : TuneWork F A) (hp : PatchWork F A)
    (s : State) : Frame F A s (leaveRun s) :=
  (((((setRun_frame ht.ends.port hA _ s).trans (setCause_frame ht.ends.port _ _)).trans
    (abortTune_frame ht _)).trans (stopAllocator_frame hv hp.parts hp.area _)).trans (stopPatch_frame hp _))

/-! ### Stream entries -/

theorem applyNoteOn_frame (h : NoteWork F A) (k : SweepWork F A) (hA : ∀ p w, partArea p w → A w) (e : StreamEntry)
    (s : State) : Frame F A s (applyNoteOn e s) := by
  refine applyParts_frame k h.parts hA _ (fun p x => ?_) s
  split
  · exact stopNote_frame h p _ x
  · exact playNote_frame h p _ x

theorem applyNoteOff_frame (h : NoteWork F A) (k : SweepWork F A) (hA : ∀ p w, partArea p w → A w) (e : StreamEntry)
    (s : State) : Frame F A s (applyNoteOff e s) :=
  applyParts_frame k h.parts hA _ (fun p x => stopNote_frame h p _ x) s

theorem applyHoldOn_frame (h : NoteWork F A) (k : SweepWork F A) (hA : ∀ p w, partArea p w → A w) (e : StreamEntry)
    (s : State) : Frame F A s (applyHoldOn e s) :=
  applyParts_frame k h.parts hA _ (fun p x => setSustain_frame h _ p x) s

theorem applyHoldOff_frame (h : NoteWork F A) (k : SweepWork F A) (hA : ∀ p w, partArea p w → A w) (e : StreamEntry)
    (s : State) : Frame F A s (applyHoldOff e s) :=
  applyParts_frame k h.parts hA _ (fun p x => setSustain_frame h _ p x) s

theorem applyBend_frame (h : F.parts = true) (k : SweepWork F A) (hA : ∀ p w, partArea p w → A w) (e : StreamEntry)
    (s : State) : Frame F A s (applyBend e s) :=
  applyParts_frame k h hA _ (fun p x => setBend_frame h _ p x) s

theorem applyAllOff_frame (h : VoiceWork F A) (hp : F.parts = true) (k : SweepWork F A)
    (hA : ∀ p w, partArea p w → A w) (e : StreamEntry) (s : State) : Frame F A s (applyAllOff e s) :=
  applyParts_frame k hp hA _ (fun p x => allOffPart_frame h hp p x) s

/-! ### Timers -/

/-- The part time changes, which no frame admits; the page changes in header words 8 and 9. -/
theorem tick_page {P : Page → Prop} (s : State) (h8 : WordsKeep (fun w => w = headerBase + 8 ∨ w = headerBase + 9) P)
    (h : P s.page) : P (tick s).page := by
  have voices := Frame.forVoices (F := { voices := true }) (A := fun _ => False)
    (f := fun v x => x.modVoice v (Voice.reachGap (s.time + 1#32))) (fun v x => modVoice_frame rfl v _ x)
    { s with time := s.time + 1#32, page := Page.writeTime s.page (s.time + 1#32) }
  refine voices.page P (fun _ _ _ hw _ => hw.elim) (h8.writeWords _ (fun i hi => ?_) h)
  match i, hi with
  | 0, _ => exact .inl rfl
  | 1, _ => exact .inr rfl

theorem glideVoice_frame (h : F.voices = true) (v : VoiceIx) (s : State) : Frame F A s (glideVoice v s) :=
  .ite (fun _ => .refl s) fun _ => setVoice_frame h v _ s

theorem enterMeasure_frame (h : TuneWork F A) (s : State) : Frame F A s (enterMeasure s) :=
  (Frame.setTune h.tune _).trans (publishStatus_frame h _)

/-! ### Requests -/

theorem answer_frame (h : Frame F A s t) (c : Completion) : Frame F A s (answer c t).1 := h

theorem setGroups_frame (h : F.parts = true) (hA : ∀ p w, partArea p w → A w) (group : PartIx → Word) (s : State) :
    Frame F A s (setGroups group s) :=
  .foldl (fun x p => changePart_frame h (hA p) _ x) _ s

theorem moveVoice_frame (h : VoiceWork F A) (group : PartIx → Word) (v : VoiceIx) (s : State) :
    Frame F A s (moveVoice group v s) := by
  refine .ite (fun _ => .refl s) fun _ => Frame.trans ?_ (publishVoice_frame h.voices (h.area v) _ _)
  refine Frame.trans ?_ (modVoice_frame h.voices v _ _)
  exact .ite (fun _ => cutUnpublished_frame h.voices h.sequence h.area false v s) fun _ => .refl s

theorem layoutBody_frame (h : VoiceWork F A) (hp : F.parts = true) (hA : ∀ p w, partArea p w → A w) (r : Inflight)
    (args : List Word) (s : State) : Frame F A s (layoutBody r args s).1 := by
  unfold layoutBody
  dsimp only
  split
  · exact .refl s
  · exact answer_frame
      ((Frame.forVoices (fun v x => moveVoice_frame h _ v x) s).trans (setGroups_frame hp hA _ _)) _

theorem serviceOut_frame (h : VoiceWork F A) (k : TuneWork F A) (v : VoiceIx) (s : State) :
    Frame F A s (serviceOut v s) := by
  unfold serviceOut
  split
  case h_5 => exact changeVoice_frame h.voices (h.area v) _ s
  case h_6 => exact (changeVoice_frame h.voices (h.area v) _ s).trans (removeVoiceTargets_frame k v _)
  case h_7 => exact .refl s
  all_goals exact h.cut true v s

theorem serviceIn_frame (h : VoiceWork F A) (v : VoiceIx) (s : State) : Frame F A s (serviceIn v s) :=
  .ite (fun _ => changeVoice_frame h.voices (h.area v) _ s) fun _ =>
    .ite (fun _ => changeVoice_frame h.voices (h.area v) _ s) fun _ => .refl s

theorem voiceServiceBody_frame (h : VoiceWork F A) (k : TuneWork F A) (r : Inflight) (args : List Word) (s : State) :
    Frame F A s (voiceServiceBody r args s).1 := by
  unfold voiceServiceBody
  dsimp only
  split
  · exact answer_frame (.foldl (fun x v => serviceOut_frame h k v x) _ s) _
  · split
    · exact answer_frame (.foldl (fun x v => serviceIn_frame h v x) _ s) _
    · exact answer_frame (.refl s) _

theorem foldl_fst_frame {α β : Type} {f : State × α → β → State × α} (hf : ∀ x b, Frame F A x.1 (f x b).1) (l : List β)
    (x : State × α) : Frame F A x.1 (l.foldl f x).1 := by
  induction l generalizing x with
  | nil => exact .refl _
  | cons b l ih => exact (hf x b).trans (ih (f x b))

theorem hostWrite_frame (h : PatchWork F A) (k : PickupWork F A) (p : PartIx) (i : ParamIx) (v : Word)
    (r : State × Nat) : Frame F A r.1 (hostWrite p i v r).1 := by
  unfold hostWrite
  dsimp only
  exact ((setLive_frame h.patch p i v r.1).trans (cancelLane_frame h p i _)).trans (reportWrite_frame k p i _)

theorem hostWrites_frame (h : PatchWork F A) (k : PickupWork F A) (pairs : List (ParamIx × Word)) (p : PartIx)
    (r : State × Nat) : Frame F A r.1 (hostWrites pairs p r).1 := by
  unfold hostWrites
  dsimp only
  have one : ∀ (q : State × Nat) (x : ParamIx × Word), Frame F A q.1 (hostWrite p x.1 x.2 q).1 := fun q x =>
    hostWrite_frame h k p x.1 x.2 q
  have writes : Frame F A r.1 (pairs.foldl (fun q x => hostWrite p x.1 x.2 q) r).1 := foldl_fst_frame one pairs r
  exact h.change writes p _

theorem paramWriteBody_frame (h : PatchWork F A) (k : PickupWork F A) (r : Inflight) (args : List Word) (s : State) :
    Frame F A s (paramWriteBody r args s).1 := by
  unfold paramWriteBody
  extract_lets count parts pairs q
  split
  · exact answer_frame (.refl s) _
  · split
    · exact answer_frame (.refl s) _
    · split
      · exact answer_frame (.refl s) _
      · refine answer_frame (t := q.1) ?_ _
        exact foldl_fst_frame (fun q p => hostWrites_frame h k pairs p q) _ (s, 0)

/-- The words of patch frame `f`. -/
def frameArea (f : Fin 4) (w : Nat) : Prop := frameBase f ≤ w ∧ w < frameBase f + 132

theorem writeFrame_frame {f : Fin 4} (hA : ∀ w, frameArea f w → A w) (n : Nat) (p : PartIx) (s : State) :
    Frame F A s (writeFrame n f p s) := by
  refine .setPage _ fun _ hP hp => ?_
  have hg := hP.writeWords
    (([frameSum (liveOf s p), wordOf p.val, s.patch.captureCounter] : List Word).take (n - 128))
    (w := frameBase f + 1)
    (fun i hi => hA _ (by
      rw [List.length_take] at hi
      have : i < 3 := by simp only [List.length_cons, List.length_nil] at hi; omega
      exact ⟨by omega, by omega⟩))
    (hP.writeWords ((liveOf s p).toList.take n) (w := frameBase f + 4)
      (fun i hi => hA _ (by
        rw [List.length_take, Vector.length_toList] at hi
        exact ⟨by omega, by omega⟩)) hp)
  split
  · exact hg
  · exact hP _ _ _ (hA _ ⟨Nat.le_refl _, by omega⟩) hg

theorem captureBody_frame (h : PatchWork F A) (hA : ∀ f w, frameArea f w → A w) (r : Inflight) (args : List Word)
    (s : State) : Frame F A s (captureBody r args s).1 := by
  unfold captureBody
  split
  · exact .refl s
  · exact h.change ((Frame.setPatch h.patch _).trans (writeFrame_frame (hA _) _ _ _)) _ _

/-- A soft reset that cuts a capture finds the frame's words, the slot's state word and the capture counter
changed at most (R127). -/
theorem cutCapture_frame (h : F.patch = true) (hA : ∀ f w, frameArea f w → A w) (hS : ∀ i, A (slotBase i))
    (s : State) : Frame F A s (cutCapture s) := by
  unfold cutCapture
  split
  · exact .refl s
  · split
    · exact .refl s
    · exact ((Frame.setPage _ fun _ hP hp => hP _ _ _ (hS _) hp).trans (Frame.setPatch h _)).trans
        (writeFrame_frame (hA _) _ _ _)

theorem acceptRecall_frame (h : PatchWork F A) (k : PickupWork F A) (r : Inflight) (time : Nat)
    (copy : Vector Word 128) (parts : List PartIx) (s : State) :
    Frame F A s (acceptRecall r time copy parts s).1 := by
  have first : ∀ x, Frame F A s (parts.foldl (fun u p => recallPart r time copy p u) { s with patch := x }) := fun x =>
    (Frame.setPatch h.patch x).trans (.foldl (fun y p => recallPart_frame h k r time copy p y) _ _)
  unfold acceptRecall
  dsimp only
  split
  · exact first _
  · exact (first _).trans (releaseRecall_frame h.patch _ _)

theorem recallBody_frame (h : PatchWork F A) (k : PickupWork F A) (r : Inflight) (args : List Word) (s : State) :
    Frame F A s (recallBody r args s).1 := by
  unfold recallBody
  dsimp only
  repeat' split
  all_goals first | exact acceptRecall_frame h k r _ _ _ s | exact .refl s

theorem routeBody_frame (h : PanelWork F A) (hr : F.router = true) (k : PickupWork F A) (r : Inflight)
    (args : List Word) (s : State) : Frame F A s (routeBody r args s).1 := by
  unfold routeBody
  dsimp only
  split
  · exact .refl s
  · split
    · exact .refl s
    · exact (Frame.foldl (fun x d => installDesc_frame h hr d x) _ s).trans
        (.foldl (fun x i => routePickup_frame k i x) _ _)

theorem acceptTune_frame (h : TuneWork F A) (r : Inflight) (args : List Word) (ts : List TargetIx) (s : State) :
    Frame F A s (acceptTune r args ts s) := by
  unfold acceptTune
  exact (Frame.setTune h.tune _).trans (publishStatus_frame h _)

theorem tuneBody_frame (h : TuneWork F A) (r : Inflight) (args : List Word) (s : State) :
    Frame F A s (tuneBody r args s).1 := by
  unfold tuneBody
  split
  · exact answer_frame (.refl s) _
  · split
    · exact answer_frame (.refl s) _
    · extract_lets ts
      split
      · exact answer_frame (.refl s) _
      · split
        · exact answer_frame (.refl s) _
        · exact acceptTune_frame h r args ts s

theorem tuneAbortBody_frame (h : TuneWork F A) (r : Inflight) (args : List Word) (s : State) :
    Frame F A s (tuneAbortBody r args s).1 := by
  unfold tuneAbortBody
  split
  · exact abortTune_frame h s
  · exact .refl s

theorem importTarget_frame (h : TuneWork F A) (p : Page) (x : TargetIx) (s : State) :
    Frame F A s (importTarget p x s) :=
  setTarget_frame h x _ s

theorem tableImportBody_frame (h : TuneWork F A) (r : Inflight) (args : List Word) (s : State) :
    Frame F A s (tableImportBody r args s).1 := by
  unfold tableImportBody
  dsimp only
  split
  · exact .refl s
  · split
    · exact .refl s
    · exact .foldl (fun x i => importTarget_frame h s.page i x) _ s

/-! ### SETUP_LOAD -/

/-- The frame admits a load (R199). -/
structure LoadWork (F : Foot) (A : Nat → Prop) : Prop where
  parts : F.parts = true
  router : F.router = true
  partWords : ∀ p w, partArea p w → A w
  error : A (headerBase + 2)
  detail : A (headerBase + 3)
  panel : PanelWork F A
  pickup : PickupWork F A
  refresh : RefreshWork F A

theorem installLoad_frame (h : LoadWork F A) (w : Nat → Word) (map : List CvSlot) (descs : List AnyDesc) (s : State) :
    Frame F A s (installLoad w map descs s) := by
  have tables : ∀ x : State, ∀ po sw tu pa, Frame F A x { x with port := po, sweeper := sw, tune := tu, panel := pa } :=
    fun _ po sw tu pa =>
      (((Frame.setPort h.panel.port po).trans (.setSweeper h.refresh.tune.ends.sweeper sw)).trans
        (.setTune h.refresh.tune.tune tu)).trans (.setPanel h.panel.panel pa)
  unfold installLoad
  extract_lets group s1 s2 s3 s4 port sweeper tune panel s5 s6
  have h1 : Frame F A s s1 :=
    (Frame.forVoices (fun v x => changeVoice_frame h.refresh.tune.voices (h.refresh.tune.area v) _ x) s).trans
      (setGroups_frame h.parts h.partWords _ _)
  have h2 : Frame F A s1 s2 := .foldl (fun x d => installDesc_frame h.panel h.router d x) _ _
  have h3 : Frame F A s2 s3 := .foldl (fun x i => setPickup_frame h.pickup i _ x) _ _
  have h4 : Frame F A s3 s4 := .foldl (fun x i => setSwitch_frame h.panel i _ x) _ _
  have h5 : Frame F A s4 s5 := tables s4 { port with loaded := true } { sweeper with nextInterval := some (w 5) }
    { tune with idleThreshold := w 9 } { panel with debounce := (w 8).toNat }
  have h6 : Frame F A s5 s6 := loadMap_frame h.refresh _ _
  exact (((((h1.trans h2).trans h3).trans h4).trans h5).trans h6).trans
    ((loadPeriod_frame h.panel.panel _ _).trans
      (setSetupError_frame h.refresh.tune.ends.header h.error h.detail _ _ _))

theorem setupLoadBody_frame (h : LoadWork F A) (r : Inflight) (args : List Word) (s : State) :
    Frame F A s (setupLoadBody r args s).1 := by
  have bad : ∀ region entry, Frame F A s (refuseLoad region entry s).1 := fun _ _ =>
    setSetupError_frame h.refresh.tune.ends.header h.error h.detail _ _ s
  unfold setupLoadBody
  dsimp only
  split
  · exact bad _ _
  · split
    · exact bad _ _
    · split
      · exact bad _ _
      · exact installLoad_frame h _ _ _ s

/-! ### Bus cycles -/

@[simp] theorem State.busWrite_pending (b : BusCycle) (s : State) :
    (s.busWrite b).pending = s.pending ++ b.write.toList := rfl

/-- What a bus cycle writes: a word of the page, a command to the register that A2 and A1 select, or nothing. -/
theorem BusCycle.write_cases (b : BusCycle) :
    (b.pageSelect = true ∧ b.registerSelect = false ∧
      b.write = some (.hostPageWrite b.address b.lane0 b.lane1 b.data)) ∨
    (b.pageSelect = false ∧ b.registerSelect = true ∧
      b.write = registerCommand (b.address.getLsbD 1) (b.address.getLsbD 0) b.data) ∨
    (b.pageSelect = b.registerSelect ∧ b.write = none) := by
  cases b with
  | mk p r a l0 l1 d => cases p <;> cases r <;> simp [BusCycle.write]

/-- A cycle with both selects active, or neither, drives nothing and brings no command (R182). -/
theorem BusCycle.read_eq_none (b : BusCycle) (h : b.pageSelect = b.registerSelect) (s : State) : b.read s = none := by
  cases b with
  | mk p r a l0 l1 d => cases p <;> cases r <;> simp_all [BusCycle.read]

end Sys2Proof.Machine
end

