-- ==== Sys2Proof/WellFormed.lean ====
section
/-! DEFINITION. Which commands the hardware around the part can present. The operands' types already
bound them (a voice number, a page word, a 12-bit sample, eight columns); the one check left is on
the count of a closed measurement window. -/

namespace Sys2Proof

/-- The longest gate timeout is 800 ms (R91), 12,800,000 cycles of the 16.000 MHz crystal, and a window
that closes does so before the timeout; a window holds at least one cycle. -/
def Instr.windowCountOk : Instr → Bool
  | .measurementWindowClose n => 1 ≤ n.toNat && n.toNat ≤ 12800000
  | _ => true

/-- A command that can arrive. `exec` gives every command a meaning, well-formed or not. -/
def Instr.wellFormed (i : Instr) : Bool := i.windowCountOk

end Sys2Proof
end

