-- ==== Sys2Proof/Tests/Slice0.lean ====
section
/-! SUPPORT. Tests: the ill-formed command, the manual's worked examples with the manual's numbers, and for
each statement that has hypotheses a state and operands that meet them. -/

namespace Sys2Proof.Tests

open Sys2Proof.Machine

set_option Elab.async false

/-! ### Small states -/

/-- RUN, everything else as after a power-on reset, the page empty. -/
def base : State :=
  { State.reset with
    page := []
    port :=
      { run := .run, loaded := true, attn := 0#8, attnEnable := 0#8, attnPulse := false, attnLine := false } }

/-- SETUP, loaded or not. -/
def idle (loaded : Bool) : State := { base with port := { base.port with run := .setup, loaded := loaded } }

/-- The sweep reads a last stream entry with the given bytes and bend word next. -/
def reading (k p n v : Nat) (b : Word) (s : State) : State :=
  { s with
    page := Page.writeWords s.page (streamBase 0) [wordOf (k + 256 * p), wordOf (n + 256 * v), b, 9#16]
    sweeper := { s.sweeper with run := .stream 0 1 } }

/-- The sweep takes slot 15 next, posted with ticket 7, the given kind and arguments. -/
def taking (kind : Word) (args : List Word) (s : State) : State :=
  { s with
    page := Page.writeWords s.page (slotBase 15) ([slotPosted, 7#16, kind] ++ args)
    sweeper := { s.sweeper with run := .slots [15] } }

/-- Voice `v` with its record changed, its part given the voice. -/
def having (v : VoiceIx) (p : PartIx) (f : Voice → Voice) (s : State) : State :=
  (s.setVoice v { f (s.voice v) with part := some p }).modPart p fun x => { x with group := x.group ||| bitMask 16 v.val }

/-- A voice that sounds note `n`, with age stamp 1. -/
def sounds (n : Key) (x : Voice) : Voice :=
  { x with
    state := .sounding, note := some ⟨n, 100, 5#16⟩, gateRequest := true, pitchWritten := true, gateOut := true
    ageStamp := 1#32 }

/-- Part `p` with its record changed. -/
def withPart (p : PartIx) (f : Part → Part) (s : State) : State := s.modPart p f

/-- Part `p` with one live value. -/
def withParam (p : PartIx) (i : ParamIx) (v : Word) (s : State) : State := setLive p i v s

/-! ### Well-formed commands -/

theorem test_window_count_zero_refused : (Instr.measurementWindowClose 0#32).wellFormed = false := by decide

theorem test_window_count_past_timeout_refused :
    (Instr.measurementWindowClose 12800001#32).wellFormed = false ∧
      (Instr.measurementWindowClose 12800000#32).wellFormed = true := by decide

/-! ### Chapter 3: pitch and codes -/

/-- The tune table of Case A. -/
def tableA : Vector Word 9 :=
  #v[8200#16, 14350#16, 20490#16, 26650#16, 32836#16, 38990#16, 45120#16, 51280#16, 57430#16]

/-- Case A: note 64 with drift +5, then a bend of one semitone. -/
theorem test_case_A :
    pitchCode tableA 0#16 65535#16 (pitchA 16384 0 (decodeDetune 32768#16) (unisonOffset 0 1 0) 5) = 34897#16 ∧
      pitchCode tableA 0#16 65535#16
        (pitchA 16384 (bendTerm 4096 2) (decodeDetune 32768#16) (unisonOffset 0 1 0) 5) = 35410#16 := by
  decide +kernel

/-- Case B: oscillator B of a unison voice. -/
theorem test_case_B :
    pitchCode nominalTable 0#16 65535#16
      (pitchB 16384 (decodeSemitones 41462#16) 0 (decodeDetune 33792#16) (unisonOffset 2 4 (decodeSpread 32768#16))
        (-3)) = 38452#16 := by
  decide +kernel

/-- Case C: cutoff with keytracking, at note 64 and at note 40. -/
theorem test_case_C :
    pitchCode nominalTable 0#16 65535#16 (pitchF (decodeCutoff 40000#16) 32768 16384 0 0) = 43072#16 ∧
      pitchF (decodeCutoff 40000#16) 32768 10240 0 0 = 17440 ∧ pitchF 20000 1000 10240 0 0 = 19921 := by
  decide +kernel

/-- Case D: the top of the range, with two pairs of bounds. -/
theorem test_case_D :
    pitchA 32767 (bendTerm 8191 24) 0 0 0 = 32767 ∧ lookup nominalTable 32767 = 67582 ∧
      pitchCode nominalTable 0#16 65535#16 32767 = 65535#16 ∧
      pitchCode nominalTable 1000#16 60000#16 32767 = 60000#16 := by
  decide +kernel

/-- R52 and R56: the bend term truncates toward zero; the unison table for s = 255. -/
theorem test_bend_and_unison :
    bendTerm (-1) 2 = 0 ∧ bendTerm (-16) 2 = -1 ∧ bendTerm 8191 24 = 6143 ∧
      ((List.range 8).map fun i => unisonOffset i 8 255) = [-128, -92, -55, -19, 18, 54, 91, 127] ∧
      ((List.range 4).map fun i => unisonOffset i 4 128) = [-64, -22, 21, 64] := by
  decide +kernel

/-- The octave glide of section 3.3: the step, and step 501 reaching the target. -/
theorem test_octave_glide :
    decodeGlideTime 3277#16 = 500 ∧ glideStep 500 = 402653 ∧
      (stepGlide (some 500) { base.voice 0 with glide := BitVec.ofNat 31 (15360 * 65536 - 402745) }).glide.toNat =
        15360 * 65536 - 92 ∧
      (stepGlide (some 500) { base.voice 0 with glide := BitVec.ofNat 31 (15360 * 65536 - 92) }).glide.toNat =
        15360 * 65536 := by
  decide +kernel

/-- The park codes of the tuning voice of section 4.3. -/
theorem test_park_codes :
    parkCode { nominalRec with drift := 12#8 } 0#16 65535#16 = 32792#16 ∧
      parkCode { nominalRec with drift := BitVec.ofInt 8 (-7) } 0#16 65535#16 = 32754#16 := by
  decide +kernel

/-! ### Chapter 5: the tune engine's arithmetic -/

/-- The point of section 5.3: errors, the step of 68, and the wandering confirm. -/
theorem test_full_point :
    countError 986000#32 = 132 ∧ stepDelta 132 6144 = 68 ∧ countError 978700#32 = 3 ∧ countError 978610#32 = 1 ∧
      countError 975400#32 = -54 := by
  decide +kernel

/-- The QUICK checks of section 5.4. -/
theorem test_quick_checks :
    countError 980000#32 = 26 ∧ driftStep 26 = 7 ∧ countError 975000#32 = -61 ∧ driftStep (-61) = -16 := by
  decide +kernel

/-- The log runs around its held entry (section 5.5): failure 2 is written at index 6. -/
theorem test_log_skips_held_entry :
    let s : State := { base with tune := { base.tune with faultCount := 22#16, nextIndex := 5, firstFault := some 5 } }
    let t := logFault .unstable
      { target := 0, yields := 0, point := .quick, attempt := 1, trials := 1, code := 0#16, offer := 0, newTable := []
        firstError := none, windowOpen := false, lastCount := 0#32, timer := 0 } false s
    t.tune.nextIndex = 7 ∧ t.tune.firstFault = some 5 ∧ t.tune.faultCount = 23#16 := by
  decide +kernel

/-! ### Chapters 6 to 9 -/

/-- The sum of the default live set (section 6.4). -/
theorem test_default_sum : frameSum defaultSet = 3907#16 := by decide +kernel

/-- The lane of section 7.4, from 50000 to 20000 in 1000 ms. -/
theorem test_lane_values :
    let l : Lane := ⟨3, 50000#16, 20000#16⟩
    ([1, 250, 333, 999, 1000].map fun e => laneValue l (phase e 1000)) =
      [49970#16, 42500#16, 40010#16, 20030#16, 20000#16] := by
  decide +kernel

/-- A stepped lane changes at its midpoint (R135). -/
theorem test_stepped_lane :
    let l : Lane := ⟨2, 0#16, 64199#16⟩
    laneValue l 32767 = 0#16 ∧ laneValue l 32768 = 64199#16 := by
  decide +kernel

/-- Averages and the accepted change of section 8.1. -/
theorem test_pot_average :
    average [1000#12, 1001#12, 999#12, 1010#12] = 1002#12 ∧ average [999#12, 1010#12, 1012#12, 1011#12] = 1008#12 ∧
      potMoved 6 1000#12 1005#12 = false ∧ potMoved 6 1000#12 1008#12 = true ∧ scalePot 1008#12 = 16131#16 ∧
      potMoved 6 5#12 0#12 = true ∧ scalePot 2048#12 = 32775#16 := by
  decide +kernel

/-- The bend table of R171, with windows of nibble 1 and nibble 7. -/
theorem test_pot_bends :
    ([32775#16, 33280#16, 40000#16, 0#16, 31000#16].map fun v =>
      (potBend { unusedPot with kind := .bend, window := 1#4 } v).toInt) = [0, 128, 1808, -8192, -442] ∧
      ([32775#16, 33280#16, 40000#16, 0#16, 31000#16].map fun v =>
        (potBend { unusedPot with kind := .bend, window := 7#4 } v).toInt) = [0, 0, 1808, -8192, 0] := by
  decide +kernel

/-- The bouncing press of section 8.2: it flips at sample 5. -/
theorem test_debounce :
    let x : Switch := { raw := false, stable := 0, debounced := false, presses := 6#8, releases := 2#8 }
    let run := fun (raws : List Bool) => raws.foldl (fun (y : Switch × Bool) r => debounce 3 r y.1) (x, false)
    run [true, false, true, true] = ({ x with raw := true, stable := 2 }, false) ∧
      run [true, false, true, true, true] = ({ x with raw := true, debounced := true }, true) := by
  decide +kernel

/-- The pickup of section 9.4: 24005 does not attach to 10000, 9922 does. -/
theorem test_pickup :
    let d : PotDesc := { unusedPot with kind := .param, mask := 2#4, pass := true, param := 3, window := 3#4 }
    attaches d 40009#16 24005#16 10000#16 = false ∧ attaches d 24005#16 9922#16 10000#16 = true ∧
      scalePot 2500#12 = 40009#16 ∧ scalePot 620#12 = 9922#16 := by
  decide +kernel

/-- STEP on UNISON_COUNT, on a continuous parameter and past the last step of INTERVAL_B (R172). -/
theorem test_step_switch :
    stepValue pUnisonCount 13108#16 = 26215#16 ∧ stepValue pUnisonCount 52429#16 = 0#16 ∧
      stepValue 20 0#16 = 32768#16 ∧ stepValue pIntervalB 64199#16 = 0#16 := by
  decide +kernel

/-- A full held-note list forgets its oldest note (R39); priorities (R40). -/
theorem test_held_list :
    heldInsert 99 ((List.finRange 16).map fun i => (⟨i.val, by omega⟩ : Key)) =
        ((List.finRange 15).map fun i => (⟨i.val + 1, by omega⟩ : Key)) ++ [99] ∧
      heldInsert 3 [3, 4] = [4, 3] ∧ priorityNote .monoHigh [3, 9, 4] = some 9 ∧
      priorityNote .monoLow [3, 9, 4] = some 3 ∧ priorityNote .monoLast [3, 9, 4] = some 4 := by
  decide +kernel

/-! ### One step each -/

/-- RESET leaves PSTAT 1, ATTN 0x80 and the format tag (R187). -/
theorem test_reset_registers : readPstat State.reset = 1#16 ∧ readAttn State.reset = 0x80#16 := by decide +kernel

/-- A NOTE_ON on an idle POLY part starts on the free voice, whose gate request goes on (R26). -/
theorem test_note_on_starts :
    (match exec .noteOn (reading 1 0 60 100 0#16 (having 3 0 id base)) with
      | .next t => (t.voice 3).state == .sounding && (t.voice 3).ageStamp == 1#32 && t.sweeper.taken == 1#16
      | _ => false) = true := by
  decide +kernel

/-- Its NOTE_OFF sends it on to FREE at once where the release window is 0 ms (R31). -/
theorem test_note_off_releases :
    (match exec .noteOff (reading 2 0 60 0 0#16 (having 3 0 (sounds 60) base)) with
      | .next t => (t.voice 3).state == .free && (t.voice 3).prev1 == .releasing && (t.voice 3).releaseStamp == 1#32
      | _ => false) = true := by
  decide +kernel

/-- The PARAM_WRITE that names index 200 fails with detail 1 (section 6.4). -/
theorem test_param_write_refused :
    (match exec .paramWrite (taking reqParamWrite [0x01FF#16, 200#16, 5#16] base) with
      | .next t => Page.readWords t.page (slotBase 15 + 13) 3 == [resBadArgument, 0#16, 1#16]
      | _ => false) = true := by
  decide +kernel

/-- A TUNE_ABORT with no TUNE in flight completes OK with detail 0 (R106). -/
theorem test_abort_without_tune :
    (match exec .tuneAbort (taking reqTuneAbort [] base) with
      | .next t => slotState t.page 15 == slotDone && Page.readWord t.page (slotBase 15 + 15) == 0#16
      | _ => false) = true := by
  decide +kernel
/-! ### Each statement with hypotheses has states that meet them: the queue and the invariants -/

/-- `s` with the one command `c` waiting. -/
def waiting (c : Instr) (s : State) : State := { s with pending := [c] }

/-- Voice 3 of part 0 sounds note 60. -/
def playing : State := { having 3 0 (sounds 60) base with sequence := 1#32 }

/-- A context of part 1 on CUTOFF from 0 to 50000 in 1000 ms, of the RECALL of slot 4. -/
def morphing : State :=
  { base with
    patch :=
      { base.patch with
        contexts := base.patch.contexts.set 1 (some ⟨0, 0#32, 1000, [⟨3, 0#16, 50000#16⟩]⟩)
        recalls := [⟨⟨0, 4, 7#16⟩, 0, 0, base.patch.live[1]⟩] }
    sweeper := { base.sweeper with inflight := [⟨0, 4, 7#16⟩], nextId := 1 } }

theorem absent {α : Type} {a : α} {P : Prop} (h : none = some a) : P := nomatch h

theorem all_contexts (s : State) (P : PartIx → Context → Bool) (h : ∀ p, (s.context p).all (P p) = true) (p : PartIx)
    (c : Context) (e : s.context p = some c) : P p c = true := by
  have := h p
  rw [e] at this
  exact this

theorem base_descriptors :
    (∀ i, (base.potDesc i).kind = .unused ∨
      ((base.potDesc i).hysteresis ≠ 0#4 ∧ ((base.potDesc i).kind = .report ∨ (base.potDesc i).mask ≠ 0#4))) ∧
      ∀ i : SwitchIx, (base.router.switches[i]).kind = .unused ∨ (base.router.switches[i]).kind = .report ∨
        (base.router.switches[i]).mask ≠ 0#4 :=
  ⟨fun i => .inl (by simp [base, State.reset, State.powerOn, State.potDesc, resetRouter, unusedPot]),
    fun i => .inl (by simp [base, State.reset, State.powerOn, resetRouter, unusedSwitch])⟩

theorem witness_StepRunsFrontCommand :
    (∃ rest, (waiting .go base).pending = Instr.go :: rest) ∧ base.pending = [] :=
  ⟨⟨[], rfl⟩, rfl⟩

theorem witness_EveryCommandAnswersNext :
    ({ base with port := { base.port with run := .init } } : State).port.run = .init ∧
      Instr.go ≠ .resetNActive ∧ Instr.go ≠ .powerOnInit ∧ ∀ w a b v, Instr.go ≠ .hostPageWrite w a b v :=
  ⟨rfl, nofun, nofun, nofun⟩

theorem witness_PageStaysCanonical :
    Page.wf (waiting (.hostPageWrite 5 true true 7#16) base).page = true ∧
      ∃ t, step (waiting (.hostPageWrite 5 true true 7#16) base) = .next t :=
  ⟨by decide, _, rfl⟩

theorem playing_fits : playing.VoicesFit :=
  ⟨by unfold Voice.fits; decide +kernel, fun _ => by decide +kernel,
    fun j h => absent h, by decide, fun _ => ⟨rfl, rfl⟩,
    fun _ v h => absurd h ((by decide +kernel : ∀ v, (playing.voice v).state ≠ .tuning) v), nofun⟩

theorem playing_lists : playing.ListsFit := by
  unfold State.ListsFit
  decide +kernel

theorem witness_VoicesStayFit :
    (waiting .partTimeTick playing).VoicesFit ∧ (waiting .partTimeTick playing).ListsFit ∧
      ∃ t, step (waiting .partTimeTick playing) = .next t :=
  ⟨playing_fits, playing_lists, _, rfl⟩

theorem witness_TablesStayRising :
    (waiting .partTimeTick playing).TablesRise ∧ ∃ t, step (waiting .partTimeTick playing) = .next t :=
  ⟨⟨by decide +kernel, fun j h => absent h⟩, _, rfl⟩

theorem witness_GroupsStayAgreed :
    (waiting .partTimeTick playing).GroupsAgree ∧ ∃ t, step (waiting .partTimeTick playing) = .next t :=
  ⟨by unfold State.GroupsAgree; decide +kernel, _, rfl⟩

theorem playing_stamps : playing.StampsDistinct := by
  unfold State.StampsDistinct
  decide +kernel

theorem witness_StampsStayDistinct :
    (waiting .partTimeTick playing).StampsDistinct ∧ ∃ t, step (waiting .partTimeTick playing) = .next t :=
  ⟨playing_stamps, _, rfl⟩

theorem morphing_runs : morphing.LanesRun := by
  intro p c e
  have := all_contexts morphing
    (fun p c => decide (1 ≤ c.morphTime ∧ c.morphTime ≤ 60000 ∧ c.lanes ≠ [] ∧ (c.lanes.map (·.param)).Nodup ∧
      ∀ l ∈ c.lanes, l.start ≠ l.target ∧
        ((l.start ≤ morphing.param p l.param ∧ morphing.param p l.param ≤ l.target) ∨
          (l.target ≤ morphing.param p l.param ∧ morphing.param p l.param ≤ l.start)) ∧
        ((paramSteps l.param).isSome → morphing.param p l.param = l.start ∨ morphing.param p l.param = l.target)))
    (by decide +kernel) p c e
  exact of_decide_eq_true this

theorem witness_LanesStayBetween :
    (waiting .morphStepExpiry morphing).LanesRun ∧ ∃ t, step (waiting .morphStepExpiry morphing) = .next t :=
  ⟨morphing_runs, _, rfl⟩

theorem morphing_holds : morphing.RequestsHeld := by
  refine ⟨by decide +kernel, by decide +kernel, by decide +kernel, fun p c e => ?_, ?_⟩
  · have := all_contexts morphing (fun _ c => c.owner == 0) (by decide +kernel) p c e
    exact ⟨_, List.mem_singleton.2 rfl, (of_decide_eq_true this).symm⟩
  · intro r h
    rw [List.mem_singleton.1 h]
    exact ⟨1, _, rfl, rfl⟩

theorem witness_RequestsStayHeld :
    (waiting .morphStepExpiry morphing).RequestsHeld ∧ ∃ t, step (waiting .morphStepExpiry morphing) = .next t :=
  ⟨morphing_holds, _, rfl⟩

theorem base_tables : base.TablesValid :=
  ⟨⟨by decide, nofun, .nil⟩, fun n h => absent h, base_descriptors.1, base_descriptors.2, fun j c h => absent h⟩

theorem witness_InstalledTablesStayValid :
    (waiting .partTimeTick base).TablesValid ∧ ∃ t, step (waiting .partTimeTick base) = .next t :=
  ⟨base_tables, _, rfl⟩

theorem witness_AttnAndLinesFollow :
    (waiting (.attnWrite 1#16) base).AttnLevel ∧ (waiting (.attnWrite 1#16) base).LinesFollow ∧
      ∃ t, step (waiting (.attnWrite 1#16) base) = .next t :=
  ⟨fun _ _ => by decide, ⟨fun _ => ⟨rfl, rfl⟩, fun _ h => absent h, fun _ h => absent h⟩, _, rfl⟩

/-- `base` with the words `l` from word `w` on in the page. -/
def showing (w : Nat) (l : List Word) : State := { base with page := Page.writeWords [] w l }

/-- A host write beside the records, and one state for each kind of record that shows it. -/
theorem witness_RecordsStayShown :
    let c : Instr := .hostPageWrite 0x130 true true 1#16
    (∀ s, s.up → ∃ t, exec c s = .next t) ∧ c ≠ .resetNActive ∧
      (∀ w n, 0x130 < w ∨ w + n ≤ 0x130 → ∀ x a b v, c = .hostPageWrite x a b v → ¬ (w ≤ x.toNat ∧ x.toNat < w + n)) ∧
      playing.VoicesFit ∧ (showing (voiceBase 0) (voiceWords (base.voice 0))).showsVoice 0 ∧
      (showing (tuneBase 0) (tuneWords (base.target 0))).showsTarget 0 ∧
      (showing statusBase (statusWords base.tune)).showsStatus ∧
      (showing (potBase 0) (potWords (base.pot 0) ++ [pickupWord (base.pot 0)])).showsPot 0 ∧
      (showing (switchBase 0) (switchWords (base.switch 0))).showsSwitch 0 ∧
      (showing 0 [0x1640#16, 2#16]).showsHeader 1 := by
  refine ⟨fun s _ => ⟨_, rfl⟩, nofun, fun w n h x a b v e => ?_, playing_fits, ?_, ?_, ?_, ?_, ?_, fun x e => ?_⟩
  · cases e
    show ¬ (w ≤ 0x130 ∧ 0x130 < w + n)
    omega
  · unfold State.showsVoice; decide +kernel
  · unfold State.showsTarget; decide +kernel
  · unfold State.showsStatus; decide +kernel
  · unfold State.showsPot; decide +kernel
  · unfold State.showsSwitch; decide +kernel
  · cases e
    decide

/-! ### Resets, run states and the host's cycles -/

/-- Slot 5 shows TAKEN; the refresh engine writes a slot with DAC address 9. -/
def softResettable : State :=
  { base with
    page := Page.writeWord [] (slotBase 5) slotTaken
    refresh :=
      { base.refresh with
        turn := some
          { index := 0
            slot :=
              { kind := .level, longDwell := false, owner := .part 0, param := 20, address := 9#8, low := 0#16
                high := 65535#16, tuneCode := none }
            code := 77#16, source := .computed, fresh := true } } }

theorem witness_SoftResetReinstalls :
    softResettable.up ∧ slotState softResettable.page 5 = slotTaken ∧ slotState softResettable.page 4 ≠ slotTaken ∧
      softResettable.refresh.turn.isSome ∧ base.up ∧ base.refresh.turn = none ∧
      (∀ i p f, ¬ base.captures i p f) ∧ (taking reqCapture [3#16, 2#16] base).captures 15 3 2 :=
  ⟨nofun, by decide, by decide, rfl, nofun, rfl,
    fun _ _ _ h => Option.some_ne_none _ (show some _ = (none : Option SlotIx) from h.1.symm),
    by unfold State.captures; decide +kernel⟩

/-- A capture cut after 129 of its writes: the last parameter word and the sum are new, the source part and the
tag are not yet (R126, R127). -/
theorem test_cut_capture :
    let g := (writeFrame 129 3 2 { base with page := Page.writeWord [] (frameBase 3 + 131) 9#16 }).page
    Page.readWord g (frameBase 3 + 131) = base.param 2 127 ∧ Page.readWord g (frameBase 3 + 1) = 3907#16 ∧
      Page.readWord g (frameBase 3 + 2) = 0#16 ∧ Page.readWord g (frameBase 3) = 0#16 := by
  decide +kernel

/-- A changed stamp is written whole, an unchanged one is not, and the bits 2 to 7 of word 7 are written 0 (R8,
R200). -/
theorem test_stamp_written_whole :
    let s := { base with page := Page.writeWords [] (voiceBase 0 + 7) [0xFC00#16, 0#16, 0xDEAD#16, 0#16, 0xBEEF#16] }
    let g := (s.changeVoice 0 fun x => { x with ageStamp := 5#32 }).page
    Page.readWords g (voiceBase 0 + 7) 5 = [0#16, 5#16, 0#16, 0#16, 0xBEEF#16] := by
  decide +kernel

/-- Changed edit marks are written whole, and the held-note list, unchanged, is not (R12, R200). -/
theorem test_marks_written_whole :
    let s := { base with page := Page.writeWords [] (partBase 0 + 10) [7#16, 0#16, 0#16, 0#16, 0#16, 0#16, 0xDEAD#16] }
    let g := (s.changePart 0 fun x => { x with marks := 1#128 }).page
    Page.readWord g (partBase 0 + 10) = 7#16 ∧ Page.readWords g (partBase 0 + 15) 2 = [1#16, 0#16] := by
  decide +kernel

/-- A published pot record has 0 in the high byte of word 3 (R200). -/
theorem test_pot_high_byte :
    Page.readWord (publishPot 0 { base with page := Page.writeWord [] (potBase 0 + 3) 0xAB00#16 }).page (potBase 0 + 3) =
      pickupWord (base.pot 0) := by
  decide +kernel

theorem witness_GoEntersRun :
    ((idle true).port.run = .setup ∧ (idle true).port.loaded = true) ∧
      ((idle false).port.run = .setup ∧ (idle false).port.loaded = false) ∧ base.port.run = .run :=
  ⟨⟨rfl, rfl⟩, ⟨rfl, rfl⟩, rfl⟩

theorem witness_StopLeavesRun :
    playing.port.run = .run ∧ playing.VoicesFit ∧
      (List.finRange 16).filter (fun v => (playing.voice v).state.active) = [3] ∧ playing.roomFor 1 ∧
      (playing.voice 2).state = .free ∧ (idle true).port.run = .setup :=
  ⟨rfl, playing_fits, by decide +kernel, by unfold State.roomFor; decide, by decide, rfl⟩

theorem witness_AttnFollowsCauses :
    base.up ∧ base.port.attnPulse = false ∧ (0x20#16).getLsbD 5 = true ∧ (0x8000#16).getLsbD 15 = true ∧
      ({ base.port with attnPulse := true } : Port).attnPulse = true :=
  ⟨nofun, rfl, by decide, by decide, rfl⟩

/-- A bus cycle with the selects, A2 and A1 and the data as given. -/
def cycle (page register : Bool) (a : BitVec 13) (d : Word) : BusCycle := ⟨page, register, a, true, true, d⟩

/-- The codes of PSTAT, a value that is none of them, and a double select (R182, R186). -/
theorem test_register_writes :
    ([1#16, 2#16, 0xC3#16, 3#16, 0x0101#16].map fun d => (cycle false true 0x1FFC#13 d).write) =
        [some .go, some .stop, some .softReset, none, none] ∧
      ([1#13, 2#13, 3#13].map fun a => (cycle false true a 9#16).write) =
        [some (.attnWrite 9#16), some (.attnenWrite 9#16), some (.sweepWrite 9#16)] ∧
      (cycle true true 1#13 9#16).write = none ∧ (cycle true true 1#13 9#16).read base = none := by
  decide +kernel

theorem witness_HostCyclesReachPageAndRegisters :
    ((cycle true false 5#13 9#16).pageSelect = true ∧ (cycle true false 5#13 9#16).registerSelect = false) ∧
      (([0#13, 1#13, 2#13, 3#13] : List (BitVec 13)).map fun a =>
        ((cycle false true a 9#16).address.getLsbD 1, (cycle false true a 9#16).address.getLsbD 0)) =
        [(false, false), (false, true), (true, false), (true, true)] ∧
      (cycle true true 5#13 9#16).pageSelect = (cycle true true 5#13 9#16).registerSelect ∧ base.pending = [] ∧
      (cycle false true 0#13 1#16).write = some .go ∧ (cycle false true 0#13 7#16).write = none := by
  decide +kernel

/-! ### The sweeper -/

/-- The host has posted `n` stream entries. -/
def posted (n : Nat) : State := { base with page := Page.writeWord [] 4 (wordOf n) }

theorem witness_SweepRequestsStartOrWait :
    base.up ∧ base.sweeper.run = .idle ∧ (reading 0 0 0 0 0#16 base).sweeper.run ≠ .idle ∧
      ([0, 1, 128, 129].map fun n =>
        (Page.readWord (posted n).page 4 - (posted n).sweeper.taken).toNat) = [0, 1, 128, 129] ∧
      ({ base with sweeper := { base.sweeper with interval := 1#16 } } : State).sweeper.interval ≠ 0#16 ∧
      base.sweeper.interval = 0#16 ∧ base.sweeper.pending = false ∧
      (reading 0 0 0 0 0#16 base).up ∧ (reading 0 0 0 0 0#16 base).sweeper.run = .stream 0 1 :=
  ⟨nofun, rfl, nofun, by decide, by decide, rfl, rfl, nofun, rfl⟩

/-- The entry that a `reading` state reads. -/
def entry (s : State) : StreamEntry := readEntry s.page (entryIndex s 0)

theorem witness_SweepMovesOn :
    (idle true).port.run = .setup ∧
      nextEntry (reading 1 0 60 100 0#16 (idle true)) = some (entry (reading 1 0 60 100 0#16 (idle true))) ∧
      (reading 0 0 0 0 0#16 base).reads (entry (reading 0 0 0 0 0#16 base)) ∧
      (entry (reading 0 0 0 0 0#16 base)).kind = 0#8 ∧
      (reading 7 0 0 0 0#16 base).reads (entry (reading 7 0 0 0 0#16 base)) ∧
      (entry (reading 7 0 0 0 0#16 base)).parts = none ∧
      (reading 1 4 0 1 0#16 base).reads (entry (reading 1 4 0 1 0#16 base)) ∧
      (entry (reading 1 4 0 1 0#16 base)).parts = none ∧
      Instr.paramWrite ∈ requestCommands ∧ (taking reqParamWrite [] base).up ∧
      (taking reqParamWrite [] base).sweeper.run = .slots [15] ∧
      ({ base with sweeper := { base.sweeper with run := .stream 1 3 } } : State).sweeper.run = .stream 1 3 ∧ 2 ≤ 3 :=
  ⟨rfl, rfl, ⟨rfl, rfl⟩, by decide, ⟨rfl, rfl⟩, by decide +kernel, ⟨rfl, rfl⟩, by decide +kernel, by decide, nofun, rfl,
    rfl, by decide⟩

/-! ### Note handling -/

theorem reads_entry (k p n v : Nat) (b : Word) (s : State) (h : s.port.run = .run) :
    (reading k p n v b s).reads (entry (reading k p n v b s)) :=
  ⟨h, rfl⟩

/-- A NOTE_ON of note 60 for part 0 is read next. -/
def on (s : State) : State := reading 1 0 60 100 0#16 s

theorem plays (s : State) (h : s.port.run = .run) (hk : (entry (on s)).kind = kindNoteOn)
    (hp : onePart (entry (on s)).part = some 0) (hv : (entry (on s)).velocity ≠ 0#8) :
    (on s).playsNote 0 (entry (on s)) :=
  ⟨reads_entry 1 0 60 100 0#16 s h, hk, hp, hv⟩

/-- Part 0 has the free voices 3 and 4 and plays two of them in unison. -/
def unison : State := withParam 0 pUnisonCount 13108#16 (having 4 0 id (having 3 0 id base))

theorem witness_NoteOnLatchesIdlePart :
    (on unison).playsNote 0 (entry (on unison)) ∧ (on unison).idlePart 0 = true :=
  ⟨plays _ rfl (by decide) (by decide) (by decide), by decide +kernel⟩

theorem witness_TierSearchTakesTheFirstTier :
    ([3, 4] : List VoiceIx).Pairwise (· < ·) ∧ unison.tier 3 = some (0, 0#32) ∧ tierSearch unison [3, 4] = some 3 ∧
      tierSearch unison [] = none :=
  ⟨by decide, by decide +kernel, by decide +kernel, by decide⟩

theorem witness_NoteOnStartsOrDrops :
    ((on unison).playsNote 0 (entry (on unison)) ∧ (on unison).allocates 0 (entry (on unison)) ∧
      (on unison).chosen 0 = [3, 4] ∧ (∀ v ∈ (on unison).chosen 0, ((on unison).voice v).state = .free) ∧
      (on unison).roomFor 2) ∧
      (on base).playsNote 0 (entry (on base)) ∧ (on base).allocates 0 (entry (on base)) ∧ (on base).chosen 0 = [] :=
  ⟨⟨plays _ rfl (by decide) (by decide) (by decide), by unfold State.allocates; decide +kernel, by decide +kernel,
      by decide +kernel, by unfold State.roomFor; decide⟩,
    plays _ rfl (by decide) (by decide) (by decide), by unfold State.allocates; decide +kernel, by decide +kernel⟩

/-- Part 0 has the one voice 3, which sounds note 50. -/
def busy : State := { having 3 0 (sounds 50) base with sequence := 1#32 }

/-- Part 0 is latched to two voices in unison, of which voice 3 sounds note 50; the stamp counter is at `q`. -/
def mixed (q : Long) : State :=
  { withPart 0 (fun x => { x with unison := 2#8 }) (having 3 0 (sounds 50) unison) with sequence := q }

/-- One chosen voice that is stolen, and a choice of two of which the second is stolen. -/
theorem witness_NoteOnTakesChosenVoices :
    ((on busy).playsNote 0 (entry (on busy)) ∧ (on busy).allocates 0 (entry (on busy)) ∧ (on busy).chosen 0 = [3] ∧
      ((on busy).voice 3).state = .sounding ∧ (on busy).roomFor 2) ∧
      (on (mixed 1#32)).playsNote 0 (entry (on (mixed 1#32))) ∧
      (on (mixed 1#32)).allocates 0 (entry (on (mixed 1#32))) ∧ (on (mixed 1#32)).chosen 0 = [4, 3] ∧
      (([4, 3] : List VoiceIx).map (on (mixed 1#32)).stampsOf).sum = 3 ∧ (on (mixed 1#32)).roomFor 3 :=
  ⟨⟨plays _ rfl (by decide) (by decide) (by decide), by unfold State.allocates; decide +kernel, by decide +kernel,
      by decide, by unfold State.roomFor; decide⟩,
    plays _ rfl (by decide) (by decide) (by decide), by unfold State.allocates; decide +kernel, by decide +kernel,
    by decide +kernel, by unfold State.roomFor; decide⟩

/-- The stamp counter at its end: an event that stamps, and a NOTE_ON that starts on the FREE voice 4. -/
theorem witness_StampsStayDistinct_at_the_end :
    let s := on { having 4 0 id (having 3 2 (sounds 50) base) with sequence := 0xFFFFFFFF#32 }
    s.playsNote 0 (entry s) ∧ s.allocates 0 (entry s) ∧ s.chosen 0 = [4] ∧ (s.voice 4).state = .free ∧
      s.StampsDistinct ∧ s.VoicesFit ∧ s.sequence = 0xFFFFFFFF#32 := by
  refine ⟨plays _ rfl (by decide) (by decide) (by decide), by unfold State.allocates; decide +kernel,
    by decide +kernel, by decide, by unfold State.StampsDistinct; decide +kernel, ?_, rfl⟩
  exact ⟨by unfold Voice.fits; decide +kernel, fun _ => by decide +kernel, fun j h => absent h, by decide,
    fun _ => ⟨rfl, rfl⟩,
    fun _ v h => absurd h ((by decide +kernel : ∀ v,
      ((having 4 0 id (having 3 2 (sounds 50) base)).voice v).state ≠ .tuning) v), nofun⟩

theorem witness_NoteOnReusesHolders :
    (on playing).playsNote 0 (entry (on playing)) ∧ ((on playing).latched 0).mode = .poly ∧
      (on playing).holders 0 (entry (on playing)).info.note = [3] ∧ (on playing).StampsDistinct ∧
      (on playing).roomFor 1 :=
  ⟨plays _ rfl (by decide) (by decide) (by decide), by decide +kernel, by decide +kernel,
    by unfold State.StampsDistinct; decide +kernel, by unfold State.roomFor; decide⟩

/-- A TUNE of slot 2 with its ticket 5 on the target `t`, with the fault kinds `m` masked. -/
def tuneReq (t : TargetIx) (quick : Bool) (m : Word) : TuneReq :=
  { req := ⟨0, 2, 5#16⟩, quick := quick, idleSched := false, yieldPolicy := true, faultMask := m, severityMask := 0#16
    tolerance := 5, timeoutCode := 0, named := bitMask 48 t.val, committed := 0#48, fatal := 0#48 }

/-- The tune engine works on target 9, pitch A of voice 3, at the given point; voice 3 belongs to part 0. -/
def tuning (engine : EngineState) (yields : Nat) (point : TunePoint) (found : List Word) (attempt trials : Nat)
    (first : Option Int) (code : Word) : State :=
  let s := having 3 0 (fun x => { x with state := .tuning, returnState := some .free }) base
  { s with
    refresh :=
      { s.refresh with
        map :=
          [{ kind := .pitchA, longDwell := false, owner := .voice 3, param := 0, address := 9#8, low := 1000#16
             high := 60000#16, tuneCode := none }] }
    sweeper := { s.sweeper with inflight := [⟨0, 2, 5#16⟩], nextId := 1 }
    tune :=
      { s.tune with
        engine := engine
        req := some (tuneReq 9 (decide (point = .quick)) 0#16)
        offers := 1
        job := some
          { target := 9, yields := yields, point := point, attempt := attempt, trials := trials, code := code
            offer := 1, newTable := found, firstError := first, windowOpen := true, lastCount := 0#32, timer := 100 } } }

theorem witness_NoteOnPreemptsTuningVoice (y : Nat) (h : y = 1 ∨ y = 2) :
    let s := on (tuning .measure y .quick [] 1 1 none 32768#16)
    s.playsNote 0 (entry s) ∧ s.allocates 0 (entry s) ∧ s.chosen 0 = [3] ∧ (s.voice 3).state = .tuning ∧
      (∃ j, s.tune.job = some j ∧ voiceOf j.target = 3 ∧ j.yields = y) ∧ (∃ r, s.tune.req = some r) ∧
      ((s.chosen 0).map s.stampsOf).sum = 1 ∧ s.roomFor 1 := by
  rcases h with rfl | rfl <;>
    exact
      ⟨plays _ rfl (by decide) (by decide) (by decide), by unfold State.allocates; decide +kernel, by decide +kernel,
        by decide, ⟨_, rfl, by decide, rfl⟩, ⟨_, rfl⟩, by decide +kernel, by unfold State.roomFor; decide⟩

/-- `busy`, with part 0 latched to a mono mode and holding the notes `l`. -/
def mono (m : PartMode) (l : List Key) : State := withPart 0 (fun x => { x with mode := m, held := l }) busy

theorem witness_MonoSetFollowsNoteOn :
    let s := on (mono .monoLast [50])
    s.playsNote 0 (entry s) ∧ s.idlePart 0 = false ∧ (s.part 0).mode ≠ .poly ∧
      priorityNote .monoLast (heldInsert (entry s).info.note (s.part 0).held) = some 60 ∧
      priorityNote .monoLast (s.part 0).held = some 50 ∧
      priorityNote .monoLow (heldInsert (entry s).info.note (s.part 0).held) = some 50 :=
  ⟨plays _ rfl (by decide) (by decide) (by decide), by decide +kernel, by decide, by decide +kernel, by decide,
    by decide +kernel⟩

theorem witness_HeldListKeepsArrivalOrder :
    let l : List Key := (List.finRange 16).map fun i => ⟨i.val, by omega⟩
    let s := mono .monoLast l
    (on s).playsNote 0 (entry (on s)) ∧ s.ListsFit ∧ 60 ∉ (s.part 0).held ∧ (s.part 0).held.length = 16 ∧
      (reading 2 0 15 0 0#16 s).releasesNote 0 15 .noteOff ∧ 15 ∈ (s.part 0).held ∧ playing.ListsFit ∧
      (playing.part 0).held.length < 16 :=
  ⟨plays _ rfl (by decide) (by decide) (by decide), by unfold State.ListsFit; decide +kernel, by decide +kernel,
    by decide +kernel, ⟨_, reads_entry 2 0 15 0 0#16 _ rfl, by decide, by decide, .inl ⟨rfl, by decide⟩⟩,
    by decide +kernel, playing_lists, by decide⟩

theorem witness_PolyNoteOffReleases :
    (reading 2 0 60 0 0#16 playing).releasesNote 0 60 .noteOff ∧
      (reading 1 0 60 0 0#16 playing).releasesNote 0 60 .noteOn ∧ (playing.part 0).mode = .poly ∧
      (reading 2 0 60 0 0#16 playing).roomFor 1 :=
  ⟨⟨_, reads_entry 2 0 60 0 0#16 _ rfl, by decide, by decide, .inl ⟨rfl, by decide⟩⟩,
    ⟨_, reads_entry 1 0 60 0 0#16 _ rfl, by decide, by decide, .inr ⟨rfl, by decide, by decide⟩⟩, by decide,
    by unfold State.roomFor; decide⟩

theorem witness_MonoNoteOffReleasesOrFollows :
    let s := reading 2 0 50 0 0#16 (mono .monoLast [50])
    let t := reading 2 0 50 0 0#16 (mono .monoLast [40, 50])
    s.releasesNote 0 50 .noteOff ∧ (s.part 0).mode ≠ .poly ∧ s.roomFor 1 ∧ 50 ∈ (s.part 0).held ∧
      51 ∉ (s.part 0).held ∧ heldRemove 50 (s.part 0).held = [] ∧
      t.releasesNote 0 50 .noteOff ∧ priorityNote (t.part 0).mode (heldRemove 50 (t.part 0).held) = some 40 :=
  ⟨⟨_, reads_entry 2 0 50 0 0#16 _ rfl, by decide, by decide, .inl ⟨rfl, by decide⟩⟩, by decide,
    by unfold State.roomFor; decide, by decide, by decide, by decide,
    ⟨_, reads_entry 2 0 50 0 0#16 _ rfl, by decide, by decide, .inl ⟨rfl, by decide⟩⟩, by decide⟩

/-- An entry of kind `x` for the parts `ps` is read. -/
theorem part_entry (k p : Nat) (b : Word) (s : State) (h : s.port.run = .run) (x : Byte)
    (hk : (entry (reading k p 0 0 b s)).kind = x) (ps : List PartIx)
    (hp : someParts (entry (reading k p 0 0 b s)).part = some ps) :
    (reading k p 0 0 b s).reads (entry (reading k p 0 0 b s)) ∧ (entry (reading k p 0 0 b s)).kind = x ∧
      someParts (entry (reading k p 0 0 b s)).part = some ps :=
  ⟨reads_entry k p 0 0 b s h, hk, hp⟩

theorem witness_HoldOnAndBendSetPartFields :
    (∃ e, (reading 3 255 0 0 0#16 playing).reads e ∧ e.kind = kindHoldOn ∧ someParts e.part = some [0, 1, 2, 3]) ∧
      ∃ e, (reading 5 3 0 0 0x8000#16 playing).reads e ∧ e.kind = kindBend ∧ someParts e.part = some [3] :=
  ⟨⟨_, part_entry 3 255 0#16 _ rfl _ (by decide) _ (by decide)⟩,
    ⟨_, part_entry 5 3 0x8000#16 _ rfl _ (by decide) _ (by decide)⟩⟩

/-- Voice 3 of part 0 is HELD under sustain. -/
def sustained : State :=
  withPart 0 (fun x => { x with sustain := true })
    { having 3 0 (fun x => { sounds 60 x with state := .held }) base with sequence := 1#32 }

theorem witness_HoldOffReleasesHeldVoices :
    let s := reading 4 0 0 0 0#16 sustained
    (∃ e, s.reads e ∧ e.kind = kindHoldOff ∧ someParts e.part = some [0]) ∧ (s.part 0).sustain = true ∧
      (s.voicesOf 0).filter (fun v => (s.voice v).state == .held) = [3] ∧ s.roomFor 1 :=
  ⟨⟨_, part_entry 4 0 0#16 _ rfl _ (by decide) _ (by decide)⟩, by decide, by decide +kernel,
    by unfold State.roomFor; decide⟩

theorem witness_AllOffCutsParts :
    let s := reading 6 0 0 0 0#16 sustained
    (∃ e, s.reads e ∧ e.kind = kindAllOff ∧ someParts e.part = some [0]) ∧
      (s.voicesOf 0).filter (fun v => (s.voice v).state.active) = [3] ∧ s.roomFor 1 :=
  ⟨⟨_, part_entry 6 0 0#16 _ rfl _ (by decide) _ (by decide)⟩, by decide +kernel, by unfold State.roomFor; decide⟩

/-! ### Timers and completions -/

/-- Voice 3 of part 0 is stolen: note 60 waits for its damp of 5 ms. -/
def stealing : State :=
  having 3 0 (fun x =>
    { x with state := .stealing, note := some ⟨50, 100, 5#16⟩, pending := some ⟨⟨60, 90, 6#16⟩, false⟩, damp := some 5 })
    base

/-- Voice 3 of part 0 is in a release window of 100 ms. -/
def releasing : State :=
  having 3 0 (fun x => { x with state := .releasing, note := some ⟨50, 100, 5#16⟩, window := some 100 }) base

theorem witness_DampAndWindowEnd :
    stealing.up ∧ (stealing.voice 3).damp.isSome ∧ (stealing.voice 3).state = .stealing ∧
      (∃ q, (stealing.voice 3).pending = some q) ∧ (stealing.voice 3).part = some 0 ∧
      (stealing.voice 2).damp = none ∧ releasing.up ∧ (releasing.voice 3).window.isSome ∧
      (releasing.voice 3).state = .releasing ∧ (releasing.voice 2).window = none :=
  ⟨nofun, by decide, by decide, ⟨_, rfl⟩, by decide, by decide, nofun, by decide, by decide, by decide⟩

/-- A retrigger gap of voice 3 that ends at part time 1: it still runs, or is due. -/
def inGap (g : Gap) : State := having 3 0 (fun x => { sounds 60 x with gap := g, gapUntil := 1#32 }) base

theorem witness_TickEndsGaps :
    (inGap .running).up ∧ ((inGap .running).voice 3).gap = .running ∧
      ((inGap .running).voice 3).gapUntil = (inGap .running).time + 1#32 ∧
      (inGap .due).up ∧ ((inGap .due).voice 3).gap = .due ∧ ((inGap .due).voice 2).gap ≠ .due :=
  ⟨nofun, by decide, by decide, nofun, by decide, by decide⟩

/-- Voice 3 glides from the reset pitch one octave up, at 500 ms an octave. -/
def gliding : State :=
  withParam 0 pGlideTime 3277#16 (having 3 0 (fun x => { sounds 60 x with glideTarget := 18432#15 }) base)

theorem witness_GlideStepMovesTowardTarget :
    gliding.up ∧ (gliding.voice 3).part = some 0 ∧ decodeGlideTime (gliding.param 0 pGlideTime) = 500 ∧
      (gliding.voice 3).glide.toNat + 402653 < (gliding.voice 3).glideTarget.toNat * 65536 ∧
      (gliding.voice 2).part = none ∧ decodeGlideTime (playing.param 0 pGlideTime) = 0 := by
  refine ⟨nofun, ?_⟩
  decide +kernel

/-- `morphing` at part time `t`. -/
def morphingAt (t : Long) : State := { morphing with time := t }

theorem witness_MorphStepMovesLanes :
    (morphingAt 999#32).up ∧ (morphingAt 999#32).LanesRun ∧ (morphingAt 999#32).context 0 = none ∧
      ∃ c, (morphingAt 999#32).context 1 = some c ∧
        min 65536 ((999#32 - c.startTime).toNat * 65536 / c.morphTime) = 65470 ∧
        min 65536 ((1000#32 - c.startTime).toNat * 65536 / c.morphTime) = 65536 ∧
        min 65536 ((1001#32 - c.startTime).toNat * 65536 / c.morphTime) = 65536 :=
  ⟨nofun, morphing_runs, by decide, _, rfl, by decide, by decide, by decide⟩

theorem witness_CompletionsReachTheirSlots :
    ((morphingAt 1000#32).up ∧ (morphingAt 1000#32).RequestsHeld ∧ ∃ c, (morphingAt 1000#32).context 1 = some c ∧
      65536 ≤ ((morphingAt 1000#32).time - c.startTime).toNat * 65536 / c.morphTime) ∧
      (let s := { base with page := Page.writeWords [] (slotBase 4) [slotTaken, 7#16] }
       slotState s.page 4 = slotTaken ∧ slotTicket s.page 4 = 7#16) ∧
      ¬ (slotState base.page 4 = slotTaken ∧ slotTicket base.page 4 = 7#16) :=
  ⟨⟨nofun, morphing_holds, _, rfl, by decide⟩, by decide, by decide⟩

/-! ### Requests -/

theorem at_slot (k : Word) (args : List Word) (s : State) (h : s.up)
    (hs : slotState (taking k args s).page 15 = slotPosted) : (taking k args s).atSlot 15 [] :=
  ⟨h, rfl, hs⟩

/-- The slot that is next holds the kind `k`. -/
def asks (k : Word) (args : List Word) (s : State) : Prop :=
  (taking k args s).atSlot 15 [] ∧ slotKind (taking k args s).page 15 = k

theorem asks_of (k : Word) (args : List Word) (s : State) (h : s.up)
    (hs : slotState (taking k args s).page 15 = slotPosted) (hk : slotKind (taking k args s).page 15 = k) :
    asks k args s :=
  ⟨at_slot k args s h hs, hk⟩

theorem witness_RefusedRequests_kind_and_state :
    asks 0#16 [] base ∧ asks 11#16 [] base ∧ asks reqSetupLoad [] base ∧ base.port.run = .run ∧
      (∀ x ∈ runRequests, x.2 = reqLayout → asks reqLayout [] (idle true)) ∧ (idle true).port.run = .setup :=
  ⟨asks_of _ _ _ nofun (by decide) (by decide), asks_of _ _ _ nofun (by decide) (by decide),
    asks_of _ _ _ nofun (by decide) (by decide), rfl,
    fun _ _ _ => asks_of _ _ _ nofun (by decide) (by decide), rfl⟩

/-- A layout block that the load accepts, with `n` map entries. -/
def block (n : Nat) (s : State) : State :=
  { s with page := Page.writeWords s.page layoutBase [0x8008#16, 0#16, 0#16, 0#16, wordOf n, 4#16, 4#16, 1#16, 3#16, 100#16] }

/-- The map entry `low` to `high` for pitch A of voice 3 at DAC address 9. -/
def mapEntry (low high : Word) (s : State) : State :=
  { s with page := Page.writeWords s.page (mapBase 0) [0#16, 3#16, 9#16, low, high, 0#16] }

/-- The layout block passes where its ten words do. -/
theorem layout_passes (s : State) (h : ∀ k, k < 10 → ¬ s.layoutFails k) (k : Nat) : ¬ s.layoutFails k := by
  intro f
  refine h k ?_ f
  unfold State.layoutFails at f
  omega

theorem witness_RefusedRequests_load :
    asks reqSetupLoad [] (idle false) ∧ (taking reqSetupLoad [] (idle false)).loadFails 3 6 ∧
      asks reqSetupLoad [] (block 1 (idle false)) ∧
      (taking reqSetupLoad [] (block 1 (idle false))).loadFails 1 0 := by
  refine ⟨asks_of _ _ _ nofun (by decide) (by decide), .inl ⟨rfl, ?_, ?_⟩,
    asks_of _ _ _ nofun (by decide) (by decide), .inr ⟨layout_passes _ ?_, .inl ⟨rfl, ?_, ?_, nofun⟩⟩⟩
  · unfold State.layoutFails; decide +kernel
  · unfold State.layoutFails; decide +kernel
  · unfold State.layoutFails; decide +kernel
  · unfold State.mapCount; decide +kernel
  · unfold State.mapFails; decide +kernel

theorem witness_RefusedRequests_descriptor :
    let s := taking reqSetupLoad []
      (mapEntry 1000#16 60000#16 (block 1 { idle false with page := Page.writeWord [] (descBase 255) 9#16 }))
    asks reqSetupLoad [] (mapEntry 1000#16 60000#16 (block 1 { idle false with page := Page.writeWord [] (descBase 255) 9#16 })) ∧
      s.loadFails 2 255 := by
  refine ⟨asks_of _ _ _ nofun (by decide) (by decide), .inr ⟨layout_passes _ ?_, .inr ⟨?_, rfl, by decide, ?_, ?_⟩⟩⟩
  · unfold State.layoutFails; decide +kernel
  · unfold State.mapCount State.mapFails; decide +kernel
  · unfold State.descFails; decide +kernel
  · unfold State.descFails; decide +kernel

theorem witness_RefusedRequests_layout_and_service :
    (asks reqLayout [0x8000#16, 0#16, 0#16, 0x8000#16] base ∧
      let s := taking reqLayout [0x8000#16, 0#16, 0#16, 0x8000#16] base
      (s.arg 15 0).getLsbD 15 = true ∧ (s.arg 15 3).getLsbD 15 = true ∧
        ∀ w : VoiceIx, w < 15 → ∀ a b : PartIx, a ≠ b →
          ¬ ((s.arg 15 a.val).getLsbD w.val = true ∧ (s.arg 15 b.val).getLsbD w.val = true)) ∧
      asks reqVoiceService [1#16, 2#16] base ∧ 2 ≤ ((taking reqVoiceService [1#16, 2#16] base).arg 15 1).toNat := by
  refine ⟨⟨asks_of _ _ _ nofun (by decide) (by decide), ?_⟩, asks_of _ _ _ nofun (by decide) (by decide), by decide⟩
  decide +kernel

theorem witness_RefusedRequests_patch :
    (asks reqParamWrite [0x0001#16] base ∧ asks reqParamWrite [0x0501#16] base ∧ asks reqParamWrite [0x0110#16] base ∧
      asks reqParamWrite [0x0101#16, 128#16] base) ∧
      (asks reqCapture [4#16, 0#16] base ∧ asks reqCapture [3#16, 4#16] base) ∧
      (asks reqRecall [4#16] base ∧ asks reqRecall [3#16, 0xFFF0#16] base ∧ asks reqRecall [3#16, 1#16, 60001#16] base ∧
        asks reqRecall [3#16, 1#16, 60000#16] base) ∧
      let s := taking reqRecall [3#16, 1#16, 60000#16] { base with page := Page.writeWords [] (frameBase 3) [0x5A31#16, 1#16] }
      Page.readWord s.page (frameBase 3) = 0x5A31#16 ∧
        (Page.readWord s.page (frameBase 3 + 1)).toNat ≠
          ((List.range 128).map fun k => (Page.readWord s.page (frameBase 3 + (4 + k))).toNat).sum % 65536 := by
  refine ⟨⟨?_, ?_, ?_, ?_⟩, ⟨?_, ?_⟩, ⟨?_, ?_, ?_, ?_⟩, ?_⟩
  all_goals first
    | exact asks_of _ _ _ nofun (by decide) (by decide)
    | decide +kernel

theorem witness_RefusedRequests_route :
    asks reqRoute [256#16, 1#16] base ∧ asks reqRoute [0#16, 0#16] base ∧ asks reqRoute [1#16, 256#16] base ∧
      asks reqRoute [255#16, 1#16] { base with page := Page.writeWord [] (descBase 255) 9#16 } ∧
      (taking reqRoute [255#16, 1#16] { base with page := Page.writeWord [] (descBase 255) 9#16 }).descFails 255 := by
  refine ⟨?_, ?_, ?_, ?_, ?_⟩
  all_goals first
    | exact asks_of _ _ _ nofun (by decide) (by decide)
    | (unfold State.descFails; decide +kernel)

theorem witness_RefusedRequests_tune :
    (asks reqTune [] (tuning .measure 0 .quick [] 1 1 none 0#16) ∧
      (tuning .measure 0 .quick [] 1 1 none 0#16).tune.req.isSome) ∧
      (base.tune.req = none ∧
        (∀ x ∈ ([(3, [0#16, 0#16, 0#16, 2#16]), (8, []), (8, [0#16, 0#16, 0#16, 0#16, 0#16, 0#16, 0#16, 0#16, 51#16]),
              (9, [0#16, 0#16, 0#16, 0#16, 0#16, 0#16, 0#16, 0#16, 50#16, 4#16])] : List (Nat × List Word)),
          (taking reqTune x.2 base).tuneArgInRange 15 x.1 = false ∧
            ∀ m, m < x.1 → (taking reqTune x.2 base).tuneArgInRange 15 m = true)) ∧
      (let s := taking reqTune [0#16, 0#16, 0x8000#16, 0#16, 0#16, 0#16, 0#16, 0#16, 1#16] base
       (∀ k, k < 10 → s.tuneArgInRange 15 k = true) ∧ s.maskArg 15 ≠ BitVec.allOnes 48 ∧
        (s.maskArg 15).getLsbD 47 = true ∧ mapped s 47 = false) ∧
      asks reqTuneAbort [] base := by
  refine ⟨⟨asks_of _ _ _ nofun (by decide) (by decide), rfl⟩, ⟨rfl, by decide +kernel⟩, by decide +kernel,
    asks_of _ _ _ nofun (by decide) (by decide)⟩

/-- The tune area entry of target 9 with the nine points `p`, `p + d`, … and the drift word `o`. -/
def tuneEntry (p d : Nat) (o : Word) (s : State) : State :=
  { s with
    page := Page.writeWords s.page (tuneBase 9) (((List.range 9).map fun k => wordOf (p + d * k)) ++ [o]) }

theorem witness_RefusedRequests_import :
    (let s := taking reqTableImport [0x200#16] (tuning .measure 0 .quick [] 1 1 none 0#16)
     s.up ∧ slotState s.page 15 = slotPosted ∧ s.namedBy 15 = [9] ∧ s.inTune 9) ∧
      (let s := taking reqTableImport [0x200#16] (tuneEntry 1000 0 0#16 base)
       s.namedBy 15 = [9] ∧ ¬ s.inTune 9 ∧ ¬ s.pointsRise 9) ∧
      let s := taking reqTableImport [0x200#16] (tuneEntry 1000 10 128#16 base)
      s.namedBy 15 = [9] ∧ ¬ s.inTune 9 ∧ s.pointsRise 9 ∧ ¬ s.importable 9 := by
  refine ⟨⟨nofun, by decide, by decide +kernel, .inl ⟨_, rfl, rfl⟩⟩, ⟨by decide +kernel, ?_, ?_⟩, by decide +kernel, ?_, ?_, ?_⟩
  · exact fun h => h.elim (fun ⟨_, h, _⟩ => nomatch h) (fun ⟨_, h, _⟩ => nomatch h)
  · unfold State.pointsRise
    decide +kernel
  · exact fun h => h.elim (fun ⟨_, h, _⟩ => nomatch h) (fun ⟨_, h, _⟩ => nomatch h)
  · unfold State.pointsRise
    decide +kernel
  · unfold State.importable State.pointsRise
    decide +kernel

theorem witness_SetupLoadInstallsTables :
    let s := taking reqSetupLoad [] (mapEntry 1000#16 60000#16 (block 1 (idle false)))
    asks reqSetupLoad [] (mapEntry 1000#16 60000#16 (block 1 (idle false))) ∧ s.port.run = .setup ∧ s.VoicesFit ∧
      s.mapCount = 1 ∧ s.loadPasses := by
  refine ⟨asks_of _ _ _ nofun (by decide) (by decide), rfl, ?_, by decide +kernel, layout_passes _ ?_, ?_, ?_⟩
  · have free : ∀ v, (base.voice v).state = .free := by decide +kernel
    exact ⟨by unfold Voice.fits; decide +kernel, fun _ => by decide +kernel, fun j h => absent h, by decide,
      fun _ => ⟨rfl, rfl⟩, fun _ v h => absurd ((free v).symm.trans h) nofun, fun _ => ⟨rfl, fun v => .inl (free v)⟩⟩
  · unfold State.layoutFails; decide +kernel
  · unfold State.mapCount State.mapFails; decide +kernel
  · unfold State.descFails; decide +kernel

theorem witness_LayoutMovesVoices :
    let s := taking reqLayout [0#16, 0#16, 0#16, 0x8008#16] playing
    asks reqLayout [0#16, 0#16, 0#16, 0x8008#16] playing ∧ s.port.run = .run ∧
      (∀ (v : VoiceIx) (p q : PartIx), (s.arg 15 p.val).getLsbD v.val = true → (s.arg 15 q.val).getLsbD v.val = true →
        p = q) ∧
      (s.voice 3).state.active = true ∧ (s.voice 3).part = some 0 ∧ (s.voice 15).part = none ∧ s.roomFor 1 := by
  refine ⟨asks_of _ _ _ nofun (by decide) (by decide), rfl, by decide +kernel, by decide, by decide, by decide, ?_⟩
  unfold State.roomFor
  decide

theorem witness_VoiceServiceMovesVoices :
    (∀ x ∈ ([0#16, 1#16] : List Word), asks reqVoiceService [0x8008#16, x] playing ∧
      (taking reqVoiceService [0x8008#16, x] playing).arg 15 1 = x ∧
      (taking reqVoiceService [0x8008#16, x] playing).roomFor 1 ∧
      (taking reqVoiceService [0x8008#16, x] playing).VoicesFit) ∧ (playing.voice 3).state.active = true ∧
      (playing.voice 15).state = .free := by
  refine ⟨fun x h => ?_, by decide, by decide⟩
  rcases List.mem_pair.1 h with rfl | rfl <;>
    exact ⟨asks_of _ _ _ nofun (by decide) (by decide), by decide, by unfold State.roomFor; decide, playing_fits⟩

theorem witness_ParamWriteSetsParameters :
    let args : List Word := [0x0403#16, 0#16, 1#16, 127#16, 2#16, 3#16, 3#16, 3#16, 4#16]
    let s := taking reqParamWrite args morphing
    asks reqParamWrite args morphing ∧ s.LanesRun ∧ s.RequestsHeld ∧ (highByte (s.arg 15 0)).toNat = 4 ∧
      (List.finRange 4).filter (fun p => (s.arg 15 0).getLsbD p.val) = [0, 1] ∧
      ∀ j, j < 4 → (s.arg 15 (2 * j + 1)).toNat ≤ 127 :=
  ⟨asks_of _ _ _ nofun (by decide) (by decide), morphing_runs, morphing_holds, by decide, by decide +kernel,
    by decide +kernel⟩

theorem witness_CaptureWritesFrame :
    asks reqCapture [3#16, 3#16] base ∧ ((taking reqCapture [3#16, 3#16] base).arg 15 0).toNat = (3 : Fin 4).val ∧
      ((taking reqCapture [3#16, 3#16] base).arg 15 1).toNat = (3 : Fin 4).val :=
  ⟨asks_of _ _ _ nofun (by decide) (by decide), by decide, by decide⟩

theorem witness_RecallSetsOrMorphs (t : Word) (h : t = 0#16 ∨ t = 60000#16) :
    let s0 : State := { morphing with page := Page.writeWord [] (frameBase 3) 0x5A31#16 }
    let s := taking reqRecall [3#16, 0xFFF2#16, t] s0
    asks reqRecall [3#16, 0xFFF2#16, t] s0 ∧ s.port.run = .run ∧ (s.arg 15 0).toNat = (3 : Fin 4).val ∧
      (List.finRange 4).filter (fun p => (s.arg 15 1).getLsbD p.val) = [1] ∧ (s.arg 15 2).toNat = t.toNat ∧
      t.toNat ≤ 60000 ∧ Page.readWord s.page (frameBase 3) = 0x5A31#16 ∧
      (Page.readWord s.page (frameBase 3 + 1)).toNat =
        ((List.finRange 128).map fun k => (Page.readWord s.page (frameBase 3 + 4 + k.val)).toNat).sum % 65536 ∧
      s.RequestsHeld := by
  rcases h with rfl | rfl <;>
    exact ⟨asks_of _ _ _ nofun (by decide) (by decide), rfl, by decide, by decide +kernel, by decide, by decide,
      by decide, by decide +kernel, morphing_holds⟩

theorem witness_RouteInstallsDescriptors :
    asks reqRoute [255#16, 1#16] base ∧ asks reqRoute [0#16, 256#16] base ∧
      ∀ d, d < 256 → ¬ (taking reqRoute [0#16, 256#16] base).descFails d := by
  refine ⟨?_, ?_, ?_⟩
  all_goals first
    | exact asks_of _ _ _ nofun (by decide) (by decide)
    | (unfold State.descFails; decide +kernel)

/-! ### The tune engine -/

/-- The arguments of a TUNE that names target 9: QUICK, IDLE, YIELD, tolerance 50, timeout code 3. -/
def tuneArgs : List Word := [0x200#16, 0#16, 0#16, 1#16, 1#16, 1#16, 0#16, 0#16, 50#16, 3#16]

/-- The map gives pitch A to voice 3; no TUNE is in flight. -/
def mappedBase : State :=
  { base with refresh := { base.refresh with map := (tuning .measure 0 .quick [] 1 1 none 0#16).refresh.map } }

theorem tuning_fits (engine : EngineState) (y : Nat) (point : TunePoint) (found : List Word) (a n : Nat)
    (first : Option Int) (code : Word) (h : engine ≠ .idle) : (tuning engine y point found a n first code).VoicesFit := by
  have voices : ∀ v, ((tuning .measure 0 .quick [] 1 1 none 0#16).voice v).fits ∧
      ((tuning .measure 0 .quick [] 1 1 none 0#16).voice v).gateOut =
        ((tuning .measure 0 .quick [] 1 1 none 0#16).voice v).gateRule true := by
    unfold Voice.fits
    decide +kernel
  have timers : ∀ v, (((tuning .measure 0 .quick [] 1 1 none 0#16).voice v).state = .stealing →
        ((tuning .measure 0 .quick [] 1 1 none 0#16).voice v).damp.isSome) ∧
      (((tuning .measure 0 .quick [] 1 1 none 0#16).voice v).state = .releasing →
        ((tuning .measure 0 .quick [] 1 1 none 0#16).voice v).window.isSome) := by
    decide +kernel
  have nine : ((tuning .measure 0 .quick [] 1 1 none 0#16).voice (voiceOf 9)).state = .tuning := by decide
  have only : ∀ v, ((tuning .measure 0 .quick [] 1 1 none 0#16).voice v).state = .tuning → voiceOf 9 = v := by
    decide +kernel
  refine ⟨voices, fun _ => timers, fun j e => ?_, ⟨fun e => absurd e h, nofun⟩, nofun,
    fun _ v e => ⟨_, rfl, only v e⟩, nofun⟩
  cases e
  exact nine

/-- The tune engine works on target 9, and its voice is to return OUT. -/
def returningOut : State :=
  (tuning .measure 0 .quick [] 1 1 none 32768#16).modVoice 3 fun x => { x with returnState := some .out }

theorem returningOut_fits : returningOut.VoicesFit := by
  refine ⟨by unfold Voice.fits; decide +kernel, fun _ => by decide +kernel, fun j e => ?_, by decide, nofun,
    fun _ v e => ⟨_, rfl, (by decide +kernel : ∀ v, (returningOut.voice v).state = .tuning → voiceOf 9 = v) v e⟩,
    nofun⟩
  cases e
  decide

theorem witness_VoiceServiceMovesVoices_while_tuning :
    let s := tuning .measure 0 .quick [] 1 1 none 32768#16
    asks reqVoiceService [8#16, 0#16] s ∧ (taking reqVoiceService [8#16, 0#16] s).VoicesFit ∧
      ((taking reqVoiceService [8#16, 0#16] s).voice 3).state = .tuning ∧
      (taking reqVoiceService [8#16, 0#16] s).roomFor 0 :=
  ⟨asks_of _ _ _ nofun (by decide) (by decide), tuning_fits _ _ _ _ _ _ _ _ nofun, by decide,
    by unfold State.roomFor; decide⟩

theorem witness_StopLeavesRun_while_tuning :
    let s := tuning .measure 0 .quick [] 1 1 none 0#16
    s.port.run = .run ∧ s.VoicesFit ∧ (s.voice 3).state = .tuning ∧ (∃ r, s.tune.req = some r ∧ s.goesFree r 3) ∧
      let t := returningOut
      t.port.run = .run ∧ t.VoicesFit ∧ (t.voice 3).state = .tuning ∧ ∃ r, t.tune.req = some r ∧ ¬ t.goesFree r 3 :=
  ⟨rfl, tuning_fits _ _ _ _ _ _ _ _ nofun, by decide, ⟨_, rfl, .inl (by decide)⟩, rfl, returningOut_fits, by decide,
    _, rfl, by unfold State.goesFree; decide +kernel⟩

theorem witness_TuneStartsAndAborts :
    (let s := taking reqTune tuneArgs mappedBase
     asks reqTune tuneArgs mappedBase ∧ s.port.run = .run ∧ s.tune.req = none ∧
      (∀ k, k < 10 → s.tuneArgInRange 15 k = true) ∧ s.namedBy 15 = [9] ∧ mapped s 9 = true ∧
      (taking reqTune (0#16 :: tuneArgs.tail) mappedBase).namedBy 15 = []) ∧
      let s := tuning .measure 0 .quick [] 1 1 none 0#16
      asks reqTuneAbort [] s ∧ s.port.run = .run ∧ (∃ r, s.tune.req = some r) ∧ (taking reqTuneAbort [] s).VoicesFit := by
  refine ⟨⟨asks_of _ _ _ nofun (by decide) (by decide), rfl, rfl, ?_⟩,
    asks_of _ _ _ nofun (by decide) (by decide), rfl, ⟨_, rfl⟩, tuning_fits _ _ _ _ _ _ _ _ nofun⟩
  decide +kernel

theorem witness_TableImportInstallsTables :
    asks reqTableImport [0x200#16] (tuneEntry 1000 10 127#16 base) ∧
      ∀ t ∈ (taking reqTableImport [0x200#16] (tuneEntry 1000 10 127#16 base)).namedBy 15,
        ¬ (taking reqTableImport [0x200#16] (tuneEntry 1000 10 127#16 base)).inTune t ∧
          (taking reqTableImport [0x200#16] (tuneEntry 1000 10 127#16 base)).importable t := by
  refine ⟨asks_of _ _ _ nofun (by decide) (by decide), fun t h => ?_⟩
  have nine : (taking reqTableImport [0x200#16] (tuneEntry 1000 10 127#16 base)).namedBy 15 = [9] := by decide +kernel
  rw [nine] at h
  rw [List.mem_singleton.1 h]
  refine ⟨fun h => h.elim (fun ⟨_, h, _⟩ => nomatch h) (fun ⟨_, h, _⟩ => nomatch h), ?_⟩
  unfold State.importable State.pointsRise
  decide +kernel

theorem tuning_tables (engine : EngineState) (y : Nat) (point : TunePoint) (found : List Word) (a n : Nat)
    (first : Option Int) (code : Word) (hc : 1000#16 ≤ code ∧ code ≤ 60000#16) :
    (tuning engine y point found a n first code).TablesValid := by
  refine ⟨⟨by simp [tuning], fun c h => ?_, List.pairwise_singleton ..⟩, fun _ h => absent h, base_descriptors.1,
    base_descriptors.2, fun j c e p => ?_⟩
  · rw [List.mem_singleton.1 h]
    exact ⟨by decide, fun _ h => absent h, nofun⟩
  · cases e
    rw [List.mem_singleton.1 p.1]
    exact hc

theorem tuning_slot (engine : EngineState) (y : Nat) (point : TunePoint) (found : List Word) (a n : Nat)
    (first : Option Int) (code : Word) : ∃ c, (tuning engine y point found a n first code).pitchSlot 9 c ∧
      c.low = 1000#16 ∧ c.high = 60000#16 :=
  ⟨_, ⟨List.mem_singleton.2 rfl, by decide, by decide⟩, rfl, rfl⟩

/-- Target 0 waits before target 9, but its voice sounds. -/
def queued : State :=
  { having 0 0 (sounds 60) mappedBase with
    tune :=
      { base.tune with req := some (tuneReq 9 true 0#16), queue := [⟨0, 0⟩] ++ ⟨9, 1⟩ :: [] } }

/-- The installed map has lost the pitch slot of target 9, which is queued. -/
theorem witness_TuneTakesTargetAndMeasures_unmapped :
    let s := { queued with refresh := { queued.refresh with map := [] } }
    s.up ∧ s.tune.engine = .idle ∧
      (∃ r, s.tune.req = some r ∧ s.mayBorrow r ⟨9, 1⟩ ∧ ∀ x ∈ [(⟨0, 0⟩ : QueueEntry)], ¬ s.mayBorrow r x) ∧
      s.tune.queue = [⟨0, 0⟩] ++ ⟨9, 1⟩ :: [] ∧ ∀ c, ¬ s.pitchSlot 9 c := by
  refine ⟨nofun, rfl, ⟨_, rfl, ?_, fun x h => ?_⟩, rfl, fun c h => List.not_mem_nil h.1⟩
  · unfold State.mayBorrow
    decide +kernel
  · rw [List.mem_singleton.1 h]
    unfold State.mayBorrow
    decide +kernel

theorem witness_TuneTakesTargetAndMeasures :
    (queued.up ∧ queued.TablesValid ∧ queued.tune.engine = .idle ∧ (∃ r, queued.tune.req = some r ∧
        queued.mayBorrow r ⟨9, 1⟩ ∧ ∀ x ∈ [(⟨0, 0⟩ : QueueEntry)], ¬ queued.mayBorrow r x) ∧
      queued.tune.queue = [⟨0, 0⟩] ++ ⟨9, 1⟩ :: [] ∧ ∃ c, queued.pitchSlot 9 c) ∧
      base.up ∧ base.tune.engine = .idle ∧ base.tune.req = none ∧
      (tuning .settle 0 .quick [] 1 1 none 0#16).tune.engine = .settle ∧
      (∃ j, (tuning .measure 0 .quick [] 1 1 none 0#16).tune.job = some j) ∧
      (tuning .measure 0 .quick [] 1 1 none 0#16).tune.engine ≠ .settle ∧
      (tuning .settle 0 .quick [] 1 1 none 0#16).tune.engine ≠ .measure := by
  refine ⟨⟨nofun, ?_, rfl, ⟨_, rfl, ?_, fun x h => ?_⟩, rfl, ?_⟩, nofun, rfl, rfl, rfl, ⟨_, rfl⟩, nofun, nofun⟩
  · have h := tuning_tables .idle 0 .quick [] 1 1 none 32768#16 (by decide)
    exact ⟨h.1, h.2.1, h.2.2.1, h.2.2.2.1, fun j c e => absent e⟩
  · unfold State.mayBorrow
    decide +kernel
  · rw [List.mem_singleton.1 h]
    unfold State.mayBorrow
    decide +kernel
  · exact ⟨_, List.mem_singleton.2 rfl, by decide, by decide⟩

/-- The codes at the points of the nominal table. -/
def foundPoints (n : Nat) : List Word := (List.range n).map fun k => wordOf (8192 + 6144 * k)

theorem measuring (point : TunePoint) (found : List Word) (a n : Nat) (first : Option Int) (code : Word)
    (h : match point with
      | .full k => found.length = k.val ∧ found.Pairwise (· < ·)
      | .quick => True)
    (hc : 1000#16 ≤ code ∧ code ≤ 60000#16) :
    ∃ j r, (tuning .measure 0 point found a n first code).measures j r ∧ j.target = 9 ∧ j.point = point ∧
      j.newTable = found ∧ j.attempt = a ∧ j.trials = n ∧ j.firstError = first ∧ j.code = code ∧ r.tolerance = 5 := by
  refine ⟨_, _, ⟨nofun, rfl, rfl, rfl, rfl, tuning_fits _ _ _ _ _ _ _ _ nofun, ⟨?_, fun j e => ?_⟩,
    tuning_tables _ _ _ _ _ _ _ _ hc⟩, rfl, rfl, rfl, rfl, rfl, rfl, rfl, rfl⟩
  · exact (by decide +kernel : ∀ t, (base.target t).table.toList.Pairwise (· < ·))
  · cases e
    exact h

/-- The cases of a measurement at point 0: its window closes within the tolerance, away from it at a code inside
and at the upper bound, and wandering after a first error of 3. -/
theorem witness_FullWindowJudgesPoint :
    (∀ a, 1 ≤ a → a ≤ 3 → ∀ n, 1 ≤ n → n ≤ 6 →
      (∃ j r, (tuning .measure 0 (.full 0) [] a n none 32768#16).measures j r ∧ j.point = .full 0 ∧
        j.attempt = a ∧ j.trials = n ∧ j.firstError = none) ∧
      (∃ j r, (tuning .measure 0 (.full 0) [] a n none 60000#16).measures j r ∧ j.code = 60000#16) ∧
      ∃ j r, (tuning .measure 0 (.full 0) [] a n (some 3) 32768#16).measures j r ∧ j.firstError = some 3) ∧
      (∃ c, (tuning .measure 0 (.full 0) [] 1 1 none 60000#16).pitchSlot 9 c ∧ c.high = 60000#16) ∧
      errorOf 978498#32 = 0 ∧ errorOf 986000#32 = 132 ∧
      max (-(6144 / 2)) (min (6144 / 2) (Int.fdiv (errorOf 986000#32 * 6144 + 6000) 12000)) = 68 ∧
      5 < |errorOf 975400#32| ∧ 4 * 5 < |3 - errorOf 975400#32| := by
  refine ⟨fun a _ _ n _ _ => ⟨?_, ?_, ?_⟩, ?_, by decide +kernel⟩
  · obtain ⟨j, r, h, -, h2, -, h3, h4, h5, -, -⟩ := measuring (.full 0) [] a n none 32768#16 ⟨rfl, .nil⟩ (by decide)
    exact ⟨j, r, h, h2, h3, h4, h5⟩
  · obtain ⟨j, r, h, -, -, -, -, -, -, h6, -⟩ := measuring (.full 0) [] a n none 60000#16 ⟨rfl, .nil⟩ (by decide)
    exact ⟨j, r, h, h6⟩
  · obtain ⟨j, r, h, -, -, -, -, -, h5, -, -⟩ := measuring (.full 0) [] a n (some 3) 32768#16 ⟨rfl, .nil⟩ (by decide)
    exact ⟨j, r, h, h5⟩
  · obtain ⟨c, h, -, h2⟩ := tuning_slot .measure 0 (.full 0) [] 1 1 none 60000#16
    exact ⟨c, h, h2⟩

/-- A confirm of error 1 at points 0, 1 and 8, and at point 1 with a code not above the point before it. -/
theorem witness_PointDoneGoesOnOrCommits :
    (∀ k : Fin 9, k = 0 ∨ k = 1 ∨ k = 8 → ∃ j r,
      (tuning .measure 0 (.full k) (foundPoints k.val) 1 1 (some 3) 60000#16).measures j r ∧ j.point = .full k ∧
        j.firstError = some 3 ∧ r.tolerance = 5) ∧
      (∃ c, (tuning .measure 0 (.full 1) (foundPoints 1) 1 1 (some 3) 60000#16).pitchSlot 9 c) ∧
      |errorOf 978610#32| ≤ 5 ∧
      (∃ j r, (tuning .measure 0 (.full 1) (foundPoints 1) 1 1 (some 3) 8192#16).measures j r ∧
        j.newTable.getLast? = some 8192#16 ∧ j.code = 8192#16) := by
  refine ⟨fun k hk => ?_, ?_, by decide +kernel, ?_⟩
  · obtain ⟨j, r, h, -, h2, -, -, -, h5, -, h7⟩ := measuring (.full k) (foundPoints k.val) 1 1 (some 3) 60000#16
      (by rcases hk with rfl | rfl | rfl <;> decide +kernel) (by decide)
    exact ⟨j, r, h, h2, h5, h7⟩
  · obtain ⟨c, h, -⟩ := tuning_slot .measure 0 (.full 1) (foundPoints 1) 1 1 (some 3) 60000#16
    exact ⟨c, h⟩
  · obtain ⟨j, r, h, -, -, h3, -, -, -, h6, -⟩ := measuring (.full 1) (foundPoints 1) 1 1 (some 3) 8192#16
      (by decide +kernel) (by decide)
    exact ⟨j, r, h, by rw [h3]; decide, h6⟩

theorem witness_QuickCheckAndGateTimeout :
    (∃ j r, (tuning .measure 0 .quick [] 1 1 none 32768#16).measures j r ∧ j.point = .quick ∧ j.attempt = 1) ∧
      (∃ j r, (tuning .measure 0 .quick [] 3 1 none 32768#16).measures j r ∧ j.attempt = 3) ∧
      (∃ c, (tuning .measure 0 .quick [] 1 1 none 32768#16).pitchSlot 9 c) ∧
      Int.fdiv (32 * errorOf 980000#32 + 62) 125 = 7 ∧ 127 < Int.fdiv (32 * errorOf 12800000#32 + 62) 125 ∧
      base.up ∧ base.tune.engine ≠ .measure := by
  refine ⟨?_, ?_, ?_, by decide +kernel, by decide +kernel, nofun, nofun⟩
  · obtain ⟨j, r, h, -, h2, -, h3, -⟩ := measuring .quick [] 1 1 none 32768#16 trivial (by decide)
    exact ⟨j, r, h, h2, h3⟩
  · obtain ⟨j, r, h, -, -, -, h3, -⟩ := measuring .quick [] 3 1 none 32768#16 trivial (by decide)
    exact ⟨j, r, h, h3⟩
  · obtain ⟨c, h, -⟩ := tuning_slot .measure 0 .quick [] 1 1 none 32768#16
    exact ⟨c, h⟩

/-! ### Refresh, codes and the panel -/

/-- The map of `mappedBase` in its pass, the turn of its one slot running; the timer and overrun as given. -/
def refreshing (timer : PeriodTimer) (late : Bool) (next : Option MapLoad) : State :=
  { mappedBase with
    refresh :=
      { mappedBase.refresh with
        timer := timer
        overrun := late
        next := next
        turn :=
          some
            { index := 0
              slot :=
                { kind := .pitchA, longDwell := false, owner := .voice 3, param := 0, address := 9#8, low := 1000#16
                  high := 60000#16, tuneCode := none }
              code := 32768#16, source := .computed, fresh := true } } }

theorem witness_RefreshWritesSlots :
    (let s : State := { mappedBase with refresh := { mappedBase.refresh with timer := .running } }
     s.up ∧ s.refresh.timer = .running ∧ s.refresh.turn = none ∧ ∃ c rest, s.refresh.map = c :: rest) ∧
      (∀ o, (refreshing .running o none).up ∧ (refreshing .running o none).refresh.timer = .running ∧
        (refreshing .running o none).refresh.turn ≠ none ∧ (refreshing .running o none).refresh.overrun = o) ∧
      (base.up ∧ base.refresh.timer ≠ .running ∧ base.refresh.turn = none) ∧
      (∃ t, (refreshing .expired true none).refresh.turn = some t ∧
        (refreshing .expired true none).refresh.map[t.index + 1]? = none ∧
        ((refreshing .expired true none).voice 3).pitchWritten = false) ∧
      (refreshing .expired true none).TablesValid ∧
      ∀ m, mapValid m.map → (refreshing .running false (some m)).refresh.next = some m ∧
        (refreshing .running false (some m)).TablesValid := by
  have h := tuning_tables .idle 0 .quick [] 1 1 none 32768#16 (by decide)
  refine ⟨⟨nofun, rfl, rfl, _, _, rfl⟩, fun _ => ⟨nofun, rfl, nofun, rfl⟩, ⟨nofun, nofun, rfl⟩, ⟨_, rfl, rfl, by decide⟩,
    ⟨h.1, fun _ e => absent e, h.2.2.1, h.2.2.2.1, fun j c e => absent e⟩, fun m hm =>
    ⟨rfl, h.1, fun n e => ?_, h.2.2.1, h.2.2.2.1, fun j c e => absent e⟩⟩
  cases e
  exact hm

/-- An installation brings the trial code into the new bounds of its slot, and starts a pass with it (log entry 5);
an empty map lets the lines rest (R65). -/
theorem test_installation :
    let s := tuning .wait 0 .quick [] 1 1 none 50000#16
    let t := installMap { map := s.refresh.map.map fun c => { c with high := 40000#16 }, period := 4#16 } s
    t.tune.job.map (·.code) = some 40000#16 ∧ t.refresh.dac = some 40000#16 ∧ t.refresh.lines.shsN = true ∧
      (installMap { map := [], period := 4#16 } s).refresh.lines =
        { dsync := true, shsN := true, dclk := false, ddata := false } := by
  decide +kernel

/-- A computed code that is strobed while its voice is TUNING does not join the written set (R73). -/
theorem test_code_written_while_tuning :
    let t : Turn :=
      { index := 0
        slot :=
          { kind := .pitchA, longDwell := false, owner := .voice 3, param := 0, address := 9#8, low := 1000#16
            high := 60000#16, tuneCode := none }
        code := 32768#16, source := .computed, fresh := true }
    ((gateEvent t (tuning .wait 0 .quick [] 1 1 none 50000#16)).voice 3).pitchWritten = false ∧
      ((gateEvent t mappedBase).voice 3).pitchWritten = true := by
  decide +kernel

theorem witness_SlotsCarryTheirCodes :
    let c (k : SlotKind) (o : Owner) : CvSlot :=
      { kind := k, longDwell := false, owner := o, param := 20, address := 9#8, low := 1000#16, high := 60000#16
        tuneCode := some 2000#16 }
    (c .level (.part 3)).low ≤ (c .level (.part 3)).high ∧
      (List.map (fun k => (c k (.voice 3)).kind.pitchIndex) [.pitchA, .pitchB, .cutoff]) = [some 0, some 1, some 2] ∧
      ((tuning .measure 0 .quick [] 1 1 none 0#16).voice 3).state = .tuning ∧
      (∃ j, (tuning .measure 0 .quick [] 1 1 none 0#16).tune.job = some j ∧ j.target = targetOf 3 0 ∧
        j.target ≠ targetOf 3 1) ∧
      (playing.voice 3).state ≠ .tuning ∧ (playing.voice 3).part = some 0 ∧ (playing.voice 3).state.active = true ∧
      (∃ q, (playing.voice 3).note = some q) ∧ (playing.voice 2).part = none :=
  ⟨by decide, by decide, by decide, ⟨_, rfl, by decide, by decide⟩, by decide, by decide, by decide, ⟨_, rfl⟩, by decide⟩

theorem witness_TableLookup :
    nominalTable.toList.Pairwise (· < ·) ∧ (3071 : Int) - 3072 < 0 ∧ (3072 : Int) - 3072 = 3072 * 0 ∧
      (27647 : Int) - 3072 < 3072 * (7 + 1) ∧ 24576 ≤ (27648 : Int) - 3072 ∧ (0#16) ≤ (65535#16) := by
  decide +kernel

theorem witness_CanonicalValuesDecode :
    2 ≤ 49 ∧ 49 ≤ 49 ∧ 48 < 49 ∧ 2 ≤ 2 ∧ 0 < 2 ∧ stepOf 49 65535#16 = 48 ∧ stepOf 2 32767#16 = 0 := by
  decide +kernel

/-- `s` with pot `i` used, with the descriptor `d` and the record `x`, in its conversion under the
descriptor `c`, after which it is emptied or not. -/
def converting (i : PotIx) (d c : PotDesc) (x : Pot) (empties : Bool) (s : State) : State :=
  { s with
    router := { s.router with pots := s.router.pots.set i d }
    panel :=
      { s.panel with
        pots := s.panel.pots.set i x, potTimer := .running
        conversion := some { pot := i, desc := c, emptyAfter := empties } } }

/-- The CUTOFF pot of part 1, with hysteresis 3. -/
def cutoffPot : PotDesc := { unusedPot with kind := .param, mask := 2#4, param := 3, hysteresis := 3#4 }

/-- A pot without a history, and one with four samples of 1. -/
def potRecords : List Pot :=
  [{ base.panel.pots[127] with history := [] },
    { base.panel.pots[127] with history := [1#12, 1#12, 1#12, 1#12], valid := true, pickup := .attached }]

theorem witness_PotsConvertAndRoute :
    (let s : State := { base with panel := { base.panel with potTimer := .running } }
     s.up ∧ s.panel.potTimer = .running ∧ s.panel.conversion = none) ∧
      (base.up ∧ base.panel.potTimer ≠ .running) ∧
      (∀ x ∈ potRecords, ∀ d ∈ [cutoffPot, unusedPot],
        let s := converting 127 d cutoffPot x (d.kind == .unused) morphing
        s.up ∧ s.panel.potTimer = .running ∧
          (∃ c, s.panel.conversion = some c ∧ c.pot = 127 ∧ c.emptyAfter = (d.kind == .unused)) ∧
          (s.pot 127).history.length = (if (s.pot 127).valid then 4 else 0) ∧ s.LanesRun ∧ s.RequestsHeld) ∧
      potMoved 3 1#12 1000#12 = true := by
  refine ⟨⟨nofun, rfl, rfl⟩, ⟨nofun, nofun⟩, fun x h d _ => ⟨nofun, rfl, ⟨_, rfl, rfl, rfl⟩, ?_, morphing_runs,
    morphing_holds⟩, by decide⟩
  have empty : base.panel.pots[127].valid = false := by decide +kernel
  rcases List.mem_pair.1 h with rfl | rfl <;> simp [converting, State.pot, empty]

/-- An ADC input and a channel are selected by the pot (R150); a pot write on the one lane of a RECALL ends its
context and completes the RECALL (R137, R139); a pot that became UNUSED is emptied (R153). -/
theorem test_pot_conversion :
    let x : Pot := { base.panel.pots[127] with history := [1#12, 1#12, 1#12, 1#12], valid := true, pickup := .attached }
    let s := converting 127 cutoffPot cutoffPot x false morphing
    let t := finishConversion 4000#12 s
    (startPotPass s).panel.potSelect = 15#4 ∧ (startPotPass s).panel.adcInput = 7 ∧
      (t.context 1).isNone = true ∧ t.patch.recalls.length = 0 ∧ t.header.discarded = 1#16 ∧
      ((finishConversion 4000#12 (converting 127 unusedPot cutoffPot x true morphing)).pot 127).valid = false := by
  decide +kernel

theorem witness_SwitchesFlipAndLedsLight :
    let s : State :=
      { morphing with
        router := { base.router with switches := base.router.switches.set 7 { unusedSwitch with kind := .toggle, mask := 2#4, param := 3 } }
        panel := { base.panel with debounce := 1 } }
    s.up ∧ s.running = true ∧ s.panel.switchRow = 0 ∧ s.LanesRun ∧ s.RequestsHeld ∧
      (∀ c : Fin 8, ((s.router.switches[switchAt 0 c]).kind ≠ .unused ∧
        (0x80#8).getLsbD c.val ≠ (s.switch (switchAt 0 c)).debounced ∧
        s.panel.debounce ≤ (s.switch (switchAt 0 c)).stable + 1) ↔ c = 7) := by
  refine ⟨nofun, rfl, rfl, morphing_runs, morphing_holds, ?_⟩
  decide +kernel

end Sys2Proof.Tests
end

section
/-! PROOFS. The sweep over the note stream and the slots: the answer of each command that takes a stream entry,
and how a sweep moves on (R19, R191 to R194). -/

namespace Sys2Proof.Machine

/-! ### Commands that take a stream entry -/

/-- The kinds of entry that the command of kind byte `k` takes. -/
def entryTest (k : Byte) : Byte → Bool := if knownKind k then (· == k) else fun j => !knownKind j

/-- What the command of kind byte `k` does with its entry in RUN. -/
def applyEntry (k : Byte) : StreamEntry → State → State :=
  match k.toNat with
  | 0 => fun _ s => s
  | 1 => applyNoteOn
  | 2 => applyNoteOff
  | 3 => applyHoldOn
  | 4 => applyHoldOff
  | 5 => applyBend
  | 6 => applyAllOff
  | _ => fun _ s => rejectEntry s

theorem entryTest_self (k : Byte) : entryTest k k = true := by
  unfold entryTest
  split <;> simp_all

/-- A byte is one of the seven stream kinds, or not in the table (R19). -/
theorem kind_cases (k : Byte) :
    k = kindNop ∨ k = kindNoteOn ∨ k = kindNoteOff ∨ k = kindHoldOn ∨ k = kindHoldOff ∨ k = kindBend ∨
      k = kindAllOff ∨ 7 ≤ k.toNat := by
  simp only [← BitVec.toNat_inj, kindNop, kindNoteOn, kindNoteOff, kindHoldOn, kindHoldOff, kindBend, kindAllOff,
    BitVec.toNat_ofNat]
  omega

/-- For a byte that is not in the kind table, the command is the rejection (R19). -/
theorem entryCommand_unknown {k : Byte} (h : 7 ≤ k.toNat) :
    entryCommand k = .rejectedStreamEntry ∧ applyEntry k = (fun _ s => rejectEntry s) ∧
      entryTest k = fun j => !knownKind j := by
  obtain ⟨n, hn⟩ := Nat.exists_eq_add_of_le' h
  have unknown : knownKind k = false := by simp only [knownKind, decide_eq_false_iff_not]; omega
  simp [entryCommand, applyEntry, entryTest, hn, unknown]

/-- Each command of the stream takes an entry of its own kind. -/
theorem exec_entryCommand (k : Byte) (s : State) :
    exec (entryCommand k) s = whenUp s (takeEntry (entryTest k) (applyEntry k)) := by
  rcases kind_cases k with rfl | rfl | rfl | rfl | rfl | rfl | rfl | h
  case inr.inr.inr.inr.inr.inr.inr =>
    obtain ⟨command, apply, test⟩ := entryCommand_unknown h
    rw [command, apply, test]
    rfl
  all_goals rfl

/-- An entry of the kind that is next is taken: applied in RUN, discarded otherwise (R193). -/
theorem takeEntry_of_next {s : State} {e : StreamEntry} {isKind : Byte → Bool}
    {apply : StreamEntry → State → State}
    (h : nextEntry s = some e) (hk : isKind e.kind = true) :
    takeEntry isKind apply s = passEntry (if s.running then apply e s else s) := by
  simp only [takeEntry, h, hk, if_true]

/-- In RUN the command of an entry's kind applies it (R193). -/
theorem exec_entry_of_reads {s : State} {e : StreamEntry} (h : s.reads e) :
    exec (entryCommand e.kind) s = .next (passEntry (applyEntry e.kind e s)) := by
  obtain ⟨run, next⟩ := h
  rw [exec_entryCommand, whenUp_up (by rw [run]; nofun), takeEntry_of_next next (entryTest_self _)]
  simp [State.running, run]

/-- In SETUP the command of an entry's kind discards it (R193). -/
theorem exec_entry_of_setup {s : State} {e : StreamEntry} (run : s.port.run = .setup) (next : nextEntry s = some e) :
    exec (entryCommand e.kind) s = .next (passEntry s) := by
  rw [exec_entryCommand, whenUp_up (by rw [run]; nofun), takeEntry_of_next next (entryTest_self _)]
  simp [State.running, run]

/-- An entry of an unknown kind, or with a part byte outside the allowed set, is rejected (R19). -/
theorem applyEntry_of_no_parts {e : StreamEntry} (h : e.parts = none) (s : State) :
    applyEntry e.kind e s = rejectEntry s := by
  rcases kind_cases e.kind with k | k | k | k | k | k | k | k
  case inr.inr.inr.inr.inr.inr.inr => rw [(entryCommand_unknown k).2.1]
  all_goals
    simp only [StreamEntry.parts, k] at h
    rw [k]
  · exact absurd h nofun
  · show applyParts _ _ s = _
    rw [show (onePart e.part).map (fun p => [p]) = none from h]; rfl
  · show applyParts _ _ s = _
    rw [show (onePart e.part).map (fun p => [p]) = none from h]; rfl
  all_goals
    show applyParts (someParts e.part) _ s = _
    rw [show someParts e.part = none from h]; rfl

/-! ### From the stream to the slots -/

/-- Before the last entry the sweep goes on with the next one (R193). -/
theorem passEntry_of_more {s : State} {done left : Nat} (h : s.sweeper.run = .stream done left) (hl : 2 ≤ left) :
    passEntry s = { s with sweeper := { s.sweeper with run := .stream (done + 1) (left - 1) } } := by
  simp only [passEntry, h]
  rw [if_neg (by omega)]

/-- After the last entry the taken count advances over them all, and the slots follow (R193). -/
theorem passEntry_of_last {s : State} {done : Nat} (h : s.sweeper.run = .stream done 1) :
    passEntry s = findSlots (setTaken (s.sweeper.taken + wordOf (done + 1)) s) := by
  simp only [passEntry, h, Nat.le_refl, if_true]

/-! ### Slots that no longer show POSTED -/

theorem dropUnposted_eq_dropWhile (p : Page) (order : List SlotIx) :
    dropUnposted p order = order.dropWhile fun i => slotState p i != slotPosted := by
  induction order with
  | nil => rfl
  | cons i rest ih =>
    by_cases h : slotState p i = slotPosted
    · simp [dropUnposted, h]
    · simp [dropUnposted, h, ih]

@[simp] theorem dropUnposted_idem (p : Page) (order : List SlotIx) :
    dropUnposted p (dropUnposted p order) = dropUnposted p order := by
  simp only [dropUnposted_eq_dropWhile, List.dropWhile_idempotent]

theorem goOnWithSlots_port (order : List SlotIx) (s : State) : (goOnWithSlots order s).port = s.port := by
  unfold goOnWithSlots
  split <;> rfl

/-- Once the sweep has passed over the slots that no longer show POSTED, it has nothing more to pass over. -/
theorem passOver_goOnWithSlots (order : List SlotIx) (s : State) :
    passOver (goOnWithSlots (dropUnposted s.page order) s) = goOnWithSlots (dropUnposted s.page order) s := by
  cases h : dropUnposted s.page order with
  | nil => rfl
  | cons i rest =>
    show goOnWithSlots (dropUnposted s.page (i :: rest)) _ = _
    rw [← h, dropUnposted_idem, h]
    rfl

/-- A take of a request passes first over the slots that no longer show POSTED (R194). -/
theorem takeRequest_passes_over {s : State} {order : List SlotIx} (h : s.sweeper.run = .slots order)
    (isKind : Word → Bool) (cls : ReqClass) (body : ReqBody) :
    takeRequest isKind cls body s =
      takeRequest isKind cls body (goOnWithSlots (order.dropWhile fun i => slotState s.page i != slotPosted) s) := by
  have hp : passOver s = goOnWithSlots (dropUnposted s.page order) s := by simp only [passOver, h]
  rw [← dropUnposted_eq_dropWhile, takeRequest, takeRequest, hp, passOver_goOnWithSlots]

/-- Every command that takes a request is a take in SETUP and RUN (R194, R196). -/
theorem exec_requestCommand {c : Instr} (hc : c ∈ requestCommands) :
    ∃ isKind cls body, ∀ s, exec c s = whenUp s (takeRequest isKind cls body) := by
  simp only [requestCommands, List.mem_cons, List.not_mem_nil, or_false] at hc
  rcases hc with rfl | rfl | rfl | rfl | rfl | rfl | rfl | rfl | rfl | rfl | rfl <;>
    exact ⟨_, _, _, fun _ => rfl⟩

theorem exec_request_passes_over {c : Instr} {s : State} {order : List SlotIx} (hc : c ∈ requestCommands) (up : s.up)
    (h : s.sweeper.run = .slots order) :
    exec c s = exec c (goOnWithSlots (order.dropWhile fun i => slotState s.page i != slotPosted) s) := by
  obtain ⟨isKind, cls, body, run⟩ := exec_requestCommand hc
  rw [run, run, whenUp_up up, whenUp_up (by rw [goOnWithSlots_port]; exact up), ← takeRequest_passes_over h]

/-! ### Rejection -/

theorem sameOutside_writeWord (p : Page) (w : Nat) (v : Word) : sameOutside (inWords w 1) p (Page.writeWord p w v) := by
  intro k hk
  simp only [inWords, not_and_or, Nat.not_le, Nat.not_lt] at hk
  exact readByte_writeWord_ne p v (by omega)

/-- Settles O22: each clause is one of the lemmas above on the commands that take entries and requests. -/
theorem sweepMovesOn : Obligations.SweepMovesOn := by
  refine ⟨?_, fun s e => exec_entry_of_setup, ?_, fun s _ _ => passEntry_of_more, fun s _ => passEntry_of_last,
    fun _ _ _ => rfl, fun _ => rfl, fun c s order => exec_request_passes_over, ?_⟩
  · intro s done left h
    simp only [nextEntry, h]
    rfl
  · intro s e h kind
    have := exec_entry_of_reads h
    rwa [kind] at this
  · intro s e h none
    refine ⟨rejectEntry s, ?_, rfl, readWord_writeWord_self _ _ _, sameOutside_writeWord _ _ _⟩
    rw [exec_entry_of_reads h, applyEntry_of_no_parts none]

end Sys2Proof.Machine
end

section
/-! PROOFS. The tier search: the least candidate of the first tier that holds one (R24, R25). -/

namespace Sys2Proof.Machine

/-! ### The least stamp of a list -/

/-- Voice `v` comes before voice `w` by the stamp `f`, the lower voice number first on a tie, or is it. -/
def stampLe (f : VoiceIx → Long) (v w : VoiceIx) : Prop := f v < f w ∨ (f v = f w ∧ v ≤ w)

/-- `best` is the first of `vs` by the stamp `f`, if `vs` holds a voice. -/
def IsFirst (f : VoiceIx → Long) (vs : List VoiceIx) (best : Option VoiceIx) : Prop :=
  (best = none ↔ vs = []) ∧ ∀ v, best = some v → v ∈ vs ∧ ∀ w ∈ vs, stampLe f v w

/-- One more voice, above all those before it, is the first of them only with a lesser stamp. -/
theorem IsFirst.snoc {f : VoiceIx → Long} {vs : List VoiceIx} {b w : VoiceIx} (h : IsFirst f vs (some b))
    (hw : ∀ v ∈ vs, v < w) : IsFirst f (vs ++ [w]) (if f w < f b then some w else some b) := by
  obtain ⟨mem, least⟩ := h.2 b rfl
  refine ⟨by split <;> simp, fun v hv => ?_⟩
  split at hv <;> rename_i lt <;> obtain rfl : _ = v := Option.some.inj hv
  · refine ⟨by simp, fun u hu => ?_⟩
    rcases List.mem_append.1 hu with hu | hu
    · rcases least u hu with l | ⟨e, -⟩
      · exact .inl (BitVec.lt_trans lt l)
      · exact .inl (e ▸ lt)
    · obtain rfl : u = w := by simpa using hu
      exact .inr ⟨rfl, le_rfl⟩
  · refine ⟨by simp [mem], fun u hu => ?_⟩
    rcases List.mem_append.1 hu with hu | hu
    · exact least u hu
    · obtain rfl : u = w := by simpa using hu
      rcases eq_or_ne (f b) (f u) with e | e
      · exact .inr ⟨e, (hw b mem).le⟩
      · exact .inl (by bv_omega)

theorem oldest_snoc (f : VoiceIx → Long) (vs : List VoiceIx) (w : VoiceIx) :
    oldest f (vs ++ [w]) = (oldest f vs).elim (some w) fun b => if f w < f b then some w else some b := by
  unfold oldest
  rw [List.foldl_append]
  generalize List.foldl _ none vs = best
  cases best <;> rfl

/-- Of voices in ascending order, `oldest` finds the first by the stamp. -/
theorem oldest_isFirst (f : VoiceIx → Long) {vs : List VoiceIx} (h : vs.Pairwise (· < ·)) :
    IsFirst f vs (oldest f vs) := by
  induction vs using List.reverseRecOn with
  | nil => exact ⟨by simp [oldest], nofun⟩
  | append_singleton vs w ih =>
    obtain ⟨sorted, -, above⟩ := List.pairwise_append.1 h
    have first := ih sorted
    rw [oldest_snoc]
    cases e : oldest f vs with
    | none =>
      rw [e] at first
      rw [first.1.1 rfl]
      exact ⟨by simp, fun v hv => by
        obtain rfl : w = v := Option.some.inj hv
        simp [stampLe]⟩
    | some b =>
      rw [e] at first
      exact first.snoc fun v hv => above v hv w (by simp)

/-- The head of an ascending list is the first by voice number alone. -/
theorem head?_isFirst {vs : List VoiceIx} (h : vs.Pairwise (· < ·)) : IsFirst (fun _ => 0#32) vs vs.head? := by
  refine ⟨List.head?_eq_none_iff, fun v hv => ⟨List.mem_of_head? hv, fun w hw => .inr ⟨rfl, ?_⟩⟩⟩
  cases vs with
  | nil => exact absurd hw (by simp)
  | cons u us =>
    obtain rfl : u = v := by simpa using hv
    rcases List.mem_cons.1 hw with rfl | hw
    · exact le_rfl
    · exact ((List.pairwise_cons.1 h).1 w hw).le

/-! ### The tiers -/

/-- `best` is the first candidate of tier `k` among `vs`, if there is one. -/
def State.PicksTier (s : State) (vs : List VoiceIx) (k : Nat) (best : Option VoiceIx) : Prop :=
  (best = none ↔ ∀ v ∈ vs, ∀ a, s.tier v ≠ some (k, a)) ∧
  ∀ v, best = some v → v ∈ vs ∧ ∃ a, s.tier v = some (k, a) ∧ ∀ w ∈ vs, ∀ b, s.tier w = some (k, b) →
    tierLe (k, a) v (k, b) w

/-- `best` is the first candidate of the tiers from `k` on among `vs`, if there is one. -/
def State.PicksFrom (s : State) (vs : List VoiceIx) (k : Nat) (best : Option VoiceIx) : Prop :=
  (best = none ↔ ∀ v ∈ vs, ∀ x, s.tier v = some x → x.1 < k) ∧
  ∀ v, best = some v → v ∈ vs ∧ ∃ x, s.tier v = some x ∧ k ≤ x.1 ∧ ∀ w ∈ vs, ∀ y, s.tier w = some y → k ≤ y.1 →
    tierLe x v y w

/-- The first by the tier's stamp of the voices that are its candidates is the tier's choice. -/
theorem IsFirst.picksTier {s : State} {f : VoiceIx → Long} {vs : List VoiceIx} {k : Nat} {c : VoiceIx → Bool}
    {best : Option VoiceIx} (h : IsFirst f (vs.filter c) best)
    (hc : ∀ v a, s.tier v = some (k, a) ↔ c v = true ∧ a = f v) : s.PicksTier vs k best := by
  constructor
  · rw [h.1, List.filter_eq_nil_iff]
    exact ⟨fun no v hv a e => no v hv ((hc v a).1 e).1, fun no v hv e => no v hv (f v) ((hc v _).2 ⟨e, rfl⟩)⟩
  · intro v hv
    obtain ⟨mem, least⟩ := h.2 v hv
    obtain ⟨memVs, cand⟩ := List.mem_filter.1 mem
    refine ⟨memVs, f v, (hc v _).2 ⟨cand, rfl⟩, fun w hw b e => .inr ⟨rfl, ?_⟩⟩
    obtain ⟨candW, rfl⟩ := (hc w b).1 e
    exact least w (List.mem_filter.2 ⟨hw, candW⟩)

/-- A tier's choice goes before that of the tiers after it (R25). -/
theorem State.PicksTier.or {s : State} {vs : List VoiceIx} {k : Nat} {a b : Option VoiceIx}
    (ha : s.PicksTier vs k a) (hb : s.PicksFrom vs (k + 1) b) : s.PicksFrom vs k (a.or b) := by
  cases a with
  | some v =>
    obtain ⟨mem, t, tier, least⟩ := ha.2 v rfl
    refine ⟨⟨nofun, fun no => absurd (no v mem _ tier) (lt_irrefl k)⟩, fun w hw => ?_⟩
    obtain rfl : v = w := Option.some.inj hw
    refine ⟨mem, _, tier, le_rfl, fun w hw ⟨l, u⟩ e hl => ?_⟩
    rcases Nat.eq_or_lt_of_le hl with eq | lt
    · obtain rfl : k = l := eq
      exact least w hw u e
    · exact .inl lt
  | none =>
    have no := ha.1.1 rfl
    have later : ∀ w ∈ vs, ∀ y, s.tier w = some y → k ≤ y.1 → k + 1 ≤ y.1 := fun w hw y e hy =>
      Nat.lt_of_le_of_ne hy fun eq => no w hw y.2 (by rw [e, eq])
    rw [Option.none_or]
    constructor
    · rw [hb.1]
      refine ⟨fun low w hw y e => ?_, fun low w hw y e => Nat.lt_succ_of_lt (low w hw y e)⟩
      exact Nat.lt_of_not_le fun hy => Nat.not_lt.2 (later w hw y e hy) (low w hw y e)
    · intro v hv
      obtain ⟨mem, x, tier, hx, least⟩ := hb.2 v hv
      exact ⟨mem, x, tier, Nat.le_of_succ_le hx, fun w hw y e hy => least w hw y e (later w hw y e hy)⟩

/-- There is no tier after (e). -/
theorem picksFrom_five (s : State) (vs : List VoiceIx) : s.PicksFrom vs 5 none := by
  refine ⟨⟨fun _ v _ x e => ?_, fun _ => rfl⟩, nofun⟩
  unfold State.tier at e
  cases h : (s.voice v).state <;> grind

/-- The tier search picks the first candidate of the tiers in their order (R24, R25). -/
theorem tierSearch_picks (s : State) {vs : List VoiceIx} (h : vs.Pairwise (· < ·)) :
    s.PicksFrom vs 0 (tierSearch s vs) := by
  have stamped (f : VoiceIx → Long) (c : VoiceIx → Bool) := oldest_isFirst f (h.filter c)
  have free := (stamped (fun v => (s.voice v).releaseStamp) fun v => (s.voice v).state == .free).picksTier
    (s := s) (k := 0) fun v a => by unfold State.tier; cases (s.voice v).state <;> grind
  have releasing := (stamped (fun v => (s.voice v).releaseStamp) fun v => (s.voice v).state == .releasing).picksTier
    (s := s) (k := 1) fun v a => by unfold State.tier; cases (s.voice v).state <;> grind
  have tuning := (head?_isFirst
    (h.filter fun v => preemptible s (s.voice v) && (s.voice v).state == .tuning)).picksTier
    (s := s) (k := 2) fun v a => by unfold State.tier preemptible; cases (s.voice v).state <;> grind
  have held := (stamped (fun v => (s.voice v).ageStamp) fun v => (s.voice v).state == .held).picksTier
    (s := s) (k := 3) fun v a => by unfold State.tier; cases (s.voice v).state <;> grind
  have sounding := (stamped (fun v => (s.voice v).ageStamp) fun v => (s.voice v).state == .sounding).picksTier
    (s := s) (k := 4) fun v a => by unfold State.tier; cases (s.voice v).state <;> grind
  have all := free.or (releasing.or (tuning.or (held.or (sounding.or (picksFrom_five s vs)))))
  rwa [Option.or_none, ← List.filter_filter] at all

/-- Settles O24: the tier search picks from the tiers from (a) on. -/
theorem tierSearchTakesTheFirstTier : Obligations.TierSearchTakesTheFirstTier := by
  intro s vs h
  obtain ⟨none_iff, first⟩ := tierSearch_picks s h
  constructor
  · rw [none_iff]
    exact ⟨fun no v hv => Option.eq_none_iff_forall_ne_some.2 fun x e => absurd (no v hv x e) (Nat.not_lt_zero _),
      fun no v hv x e => absurd e (by rw [no v hv]; nofun)⟩
  · intro v hv
    obtain ⟨mem, x, tier, -, least⟩ := first v hv
    exact ⟨mem, x, tier, fun w hw y e => least w hw y e (Nat.zero_le _)⟩

end Sys2Proof.Machine
end

section
/-! PROOFS. What an operation of note assignment leaves: the voices that it touches, the stamps that it issues, and
nothing else but the freshness of a turn in progress. These facts compose along the operations of one entry. -/

namespace Sys2Proof.Machine

/-! ### Touched voices -/

/-- What an operation on voices may change: their records, the counter of stamps and the turn in progress. -/
def voiceFoot : Foot := { voices := true, sequence := true, refresh := true }

/-- The words of the records of the voices that `A` picks out. -/
def voiceAreas (A : VoiceIx → Prop) (w : Nat) : Prop := ∃ v, A v ∧ voiceArea v w

/-- From `s` to `t` only voices that `A` picks out have changed, with their records in the page; `n` stamps have been
issued without a renumbering, and the turn in progress may count no longer (R4, R73). -/
structure Touches (A : VoiceIx → Prop) (n : Nat) (s t : State) : Prop where
  frame : Frame voiceFoot (voiceAreas A) s t
  voice : ∀ v, ¬ A v → t.voice v = s.voice v
  sequence : t.sequence = s.sequence + BitVec.ofNat 32 n
  refresh : t.refresh = { s.refresh with turn := t.refresh.turn }

theorem Frame.mono {F : Foot} {A B : Nat → Prop} {s t : State} (h : Frame F A s t) (hab : ∀ w, A w → B w) :
    Frame F B s t where
  pending := h.pending
  time := h.time
  port := h.port
  header := h.header
  sweeper := h.sweeper
  voices := h.voices
  parts := h.parts
  sequence := h.sequence
  refresh := h.refresh
  tune := h.tune
  patch := h.patch
  router := h.router
  panel := h.panel
  page := fun P hP => h.page P (hP.mono hab)

section Composition

variable {A B : VoiceIx → Prop} {m n : Nat} {s t u : State}

theorem Touches.refl (s : State) : Touches A 0 s s :=
  ⟨.refl s, fun _ _ => rfl, by simp, rfl⟩

theorem Touches.trans (h : Touches A m s t) (k : Touches A n t u) : Touches A (m + n) s u where
  frame := h.frame.trans k.frame
  voice v hv := (k.voice v hv).trans (h.voice v hv)
  sequence := by rw [k.sequence, h.sequence, BitVec.add_assoc, ← BitVec.ofNat_add]
  refresh := by rw [k.refresh, h.refresh]

theorem Touches.mono (h : Touches A n s t) (hab : ∀ v, A v → B v) : Touches B n s t where
  frame := h.frame.mono fun _ ⟨v, hv, hw⟩ => ⟨v, hab v hv, hw⟩
  voice v hv := h.voice v fun ha => hv (hab v ha)
  sequence := h.sequence
  refresh := h.refresh

/-- The state reached, with the components named that may have changed. -/
theorem Touches.eq (h : Touches A n s t) :
    t = { s with
          voices := t.voices, page := t.page, sequence := t.sequence
          refresh := { s.refresh with turn := t.refresh.turn } } := by
  conv_lhs => rw [h.frame.eq]
  rw [← h.refresh]
  rfl

theorem Touches.parts (h : Touches A n s t) : t.parts = s.parts := h.frame.parts rfl

theorem Touches.tune (h : Touches A n s t) : t.tune = s.tune := h.frame.tune rfl

theorem Touches.port (h : Touches A n s t) : t.port = s.port := h.frame.port rfl

theorem Touches.running (h : Touches A n s t) : t.running = s.running := h.frame.running rfl

theorem Touches.part (h : Touches A n s t) (p : PartIx) : t.part p = s.part p := by rw [State.part, h.parts]; rfl

theorem Touches.param (h : Touches A n s t) (p : PartIx) (i : ParamIx) : t.param p i = s.param p i := by
  rw [h.eq]; rfl

/-- What a note start leaves does not depend on what has been touched before it. -/
theorem Touches.startedRecord (h : Touches A n s t) : t.startedRecord = s.startedRecord := by rw [h.eq]; rfl

theorem Touches.retriggered (h : Touches A n s t) : t.retriggered = s.retriggered := by rw [h.eq]; rfl

theorem Touches.gapped (h : Touches A n s t) : t.gapped = s.gapped := by rw [h.eq]; rfl

theorem Touches.followed (h : Touches A n s t) : t.followed = s.followed := by rw [h.eq]; rfl

theorem Touches.released (h : Touches A n s t) : t.released = s.released := by rw [h.eq]; rfl

/-- The room that stamps issued leave (R5). -/
theorem Touches.roomFor (h : Touches A m s t) (room : s.roomFor (m + n)) : t.roomFor n := by
  unfold State.roomFor at room ⊢
  rw [h.sequence, BitVec.toNat_add, BitVec.toNat_ofNat]
  omega

end Composition

theorem State.roomFor.mono {s : State} {m n : Nat} (h : s.roomFor n) (hmn : m ≤ n) : s.roomFor m := by
  unfold State.roomFor at h ⊢
  omega

/-- With room for a stamp the counter is short of its end. -/
theorem State.roomFor.ne {s : State} (h : s.roomFor 1) : s.sequence ≠ 0xFFFFFFFF#32 := by
  unfold State.roomFor at h
  intro e
  simp [e] at h

/-! ### The elementary operations on a voice -/

section Elementary

variable (s : State) (v : VoiceIx)

theorem voiceArea_areas {v : VoiceIx} (w : Nat) (h : voiceArea v w) : voiceAreas (· = v) w := ⟨v, rfl, h⟩

theorem touches_modVoice (f : Voice → Voice) : Touches (· = v) 0 s (s.modVoice v f) :=
  ⟨modVoice_frame rfl v f s, fun _ h => voice_modVoice_ne s h f, by simp, rfl⟩

theorem touches_publishVoice (old : Voice) : Touches (· = v) 0 s (s.publishVoice v old) where
  frame := publishVoice_frame rfl voiceArea_areas old s
  voice _ h := publishVoice_voice_ne s h old
  sequence := by simp [publishVoice_keeps State.sequence s v old fun _ _ => rfl]
  refresh := by rw [publishVoice_keeps State.refresh s v old fun _ _ => rfl]

theorem touches_changeVoice (f : Voice → Voice) : Touches (· = v) 0 s (s.changeVoice v f) :=
  (touches_modVoice s v f).trans (touches_publishVoice _ v _)

theorem touches_clearPitch : Touches (· = v) 0 s (clearPitch v s) :=
  ⟨clearPitch_frame rfl rfl v s, fun _ h => clearPitch_voice_ne h s, by simp, rfl⟩

theorem touches_retrigger : Touches (· = v) 0 s (retrigger v s) :=
  (touches_clearPitch s v).trans (touches_modVoice _ v _)

theorem touches_sequence_succ : Touches (· = v) 1 s { s with sequence := s.sequence + 1#32 } :=
  ⟨.setSequence rfl _, fun _ _ => rfl, rfl, rfl⟩

variable {s v}

theorem touches_takeAge (room : s.roomFor 1) : Touches (· = v) 1 s (takeAge v s) := by
  rw [takeAge_of_ne v room.ne]
  exact (touches_sequence_succ s v).trans (touches_modVoice _ v _)

theorem takeAge_voice (room : s.roomFor 1) :
    (takeAge v s).voice v = { s.voice v with ageStamp := s.sequence + 1#32 } := by
  rw [takeAge_of_ne v room.ne, voice_modVoice_self]
  rfl

theorem touches_takeRelease (room : s.roomFor 1) : Touches (· = v) 1 s (takeRelease v s) := by
  rw [takeRelease_of_ne v room.ne]
  exact (touches_sequence_succ s v).trans (touches_modVoice _ v _)

/-- A gate request that falls takes one stamp if it was on, and none if it was off (R4, R35). -/
theorem touches_dropGate (room : s.roomFor (s.voice v).gateRequest.toNat) :
    Touches (· = v) (s.voice v).gateRequest.toNat s (dropGate v s) := by
  unfold dropGate
  cases h : (s.voice v).gateRequest with
  | false => exact touches_modVoice s v _
  | true =>
    rw [h] at room
    exact (touches_takeRelease room).trans (touches_modVoice _ v _)

theorem dropGate_voice (room : s.roomFor (s.voice v).gateRequest.toNat) :
    (dropGate v s).voice v =
      { s.voice v with
        gateRequest := false
        releaseStamp := if (s.voice v).gateRequest then s.sequence + 1#32 else (s.voice v).releaseStamp } := by
  unfold dropGate
  rw [voice_modVoice_self]
  cases h : (s.voice v).gateRequest with
  | false => rfl
  | true =>
    rw [h] at room
    simp only [if_true, takeRelease_of_ne v room.ne, voice_modVoice_self]
    rfl

end Elementary

/-! ### Publications -/

/-- The record `new`, with its change count advanced if a mirrored field differs from the record `old` (R8). -/
def Voice.publishedFrom (old new : Voice) : Voice := if voiceWords new = voiceWords old then new else new.counted

theorem publishVoice_voice (s : State) (v : VoiceIx) (old : Voice) :
    (s.publishVoice v old).voice v = old.publishedFrom ((s.voice v).regate s.running) :=
  publishVoice_voice_self s v old

theorem changeVoice_voice (s : State) (v : VoiceIx) (f : Voice → Voice) :
    (s.changeVoice v f).voice v = (s.voice v).publishedFrom ((f (s.voice v)).regate s.running) :=
  changeVoice_voice_self s v f

/-- A publication changes the change count alone. -/
theorem publishedFrom_eq (old new : Voice) :
    old.publishedFrom new = { new with changeCount := (old.publishedFrom new).changeCount } := by
  unfold Voice.publishedFrom
  split <;> rfl

theorem VoiceState.code_injective {a b : VoiceState} (h : a.code = b.code) : a = b := by
  revert h
  cases a <;> cases b <;> decide

/-- A change of state is one change of the record (R8). -/
theorem publishedFrom_of_state {old new : Voice} (h : new.state ≠ old.state) : old.publishedFrom new = new.counted := by
  refine if_neg fun e => h (VoiceState.code_injective ?_)
  have word := congrArg lowByte (List.cons.inj e).1
  simpa using word

/-- A 32-bit value is given by its two words. -/
theorem long_ext {a b : Long} (low : lowWord a = lowWord b) (high : highWord a = highWord b) : a = b := by
  simp only [lowWord, highWord] at low high
  bv_omega

/-- A change of the age stamp is one change of the record (R8). -/
theorem publishedFrom_of_ageStamp {old new : Voice} (h : new.ageStamp ≠ old.ageStamp) :
    old.publishedFrom new = new.counted := by
  refine if_neg fun e => h (long_ext ?_ ?_)
  · exact Option.some.inj (congrArg (fun l => l[8]?) e)
  · exact Option.some.inj (congrArg (fun l => l[9]?) e)

/-! ### Operations on one voice after another -/

/-- Operations on distinct voices, one after another: each finds its voice as it was, and leaves of it what it makes
of the stamps issued before. -/
theorem foldl_touches {β : Type} (key : β → VoiceIx) (count : β → Nat) (result : β → Nat → Voice)
    (f : State → β → State) {s : State} (l : List β) (nodup : (l.map key).Nodup)
    (step : ∀ b ∈ l, ∀ A m t, Touches A m s t → t.voice (key b) = s.voice (key b) → m + count b ≤ (l.map count).sum →
      Touches (· = key b) (count b) t (f t b) ∧ (f t b).voice (key b) = result b m) :
    Touches (· ∈ l.map key) (l.map count).sum s (l.foldl f s) ∧
      ∀ (i : Nat) (h : i < l.length), (l.foldl f s).voice (key l[i]) = result l[i] ((l.take i).map count).sum := by
  induction l using List.reverseRecOn with
  | nil => exact ⟨.refl s, nofun⟩
  | append_singleton l b ih =>
    simp only [List.map_append, List.map_cons, List.map_nil, List.sum_append, List.sum_cons, List.sum_nil,
      Nat.add_zero] at nodup step ⊢
    obtain ⟨nodupL, -, disjoint⟩ := List.nodup_append.1 nodup
    have fresh : key b ∉ l.map key := fun h => disjoint _ h _ (by simp) rfl
    obtain ⟨touched, records⟩ := ih nodupL fun c hc A m t ht hv hm =>
      step c (by simp [hc]) A m t ht hv (Nat.le_add_right_of_le hm)
    obtain ⟨last, record⟩ := step b (by simp) _ _ _ touched (touched.voice _ fresh) le_rfl
    rw [List.foldl_append, List.foldl_cons, List.foldl_nil]
    refine ⟨(touched.mono fun v hv => by simp [hv]).trans (last.mono fun v hv => by simp [hv]), fun i h => ?_⟩
    rcases Nat.lt_or_ge i l.length with lt | ge
    · rw [List.getElem_append_left lt, List.take_append_of_le_length lt.le, last.voice, records i lt]
      exact fun e => fresh (e ▸ List.mem_map_of_mem (List.getElem_mem lt))
    · obtain rfl : i = l.length := by rw [List.length_append, List.length_singleton] at h; omega
      simpa using record

end Sys2Proof.Machine
end

section
/-! PROOFS. For each operation of note assignment on one voice, what it touches and the record that it leaves. -/

namespace Sys2Proof.Machine

variable {s : State} {v : VoiceIx}

/-! ### Note starts (R26, R49, R50, R73) -/

/-- A move to a different state is recorded in the history (R3). -/
theorem moveTo_of_ne {st : VoiceState} {x : Voice} (h : x.state ≠ st) : x.moveTo st = x.into st := by
  unfold Voice.moveTo
  rw [if_neg (Ne.symm h)]
  rfl

theorem moveTo_self {st : VoiceState} {x : Voice} (h : x.state = st) : x.moveTo st = x := by
  unfold Voice.moveTo
  rw [if_pos h.symm]

theorem startGlide_eq (s : State) (p : PartIx) (connected : Bool) (n : Key) (x : Voice) :
    startGlide (liveOf s p) connected n x = s.pitched p connected n x := rfl

/-- The pitch-written flag of a voice without mapped pitch slots is set again at once (R73). -/
theorem clearPitch_voice (v : VoiceIx) (s : State) : (clearPitch v s).voice v = s.unwritten v (s.voice v) := by
  rw [clearPitch_voice_self]
  have settled : ((List.finRange 3).all fun j => !mapsPitch s.refresh.map v j ||
      ({ s.voice v with pitchWritten := false } : Voice).emptyWritten.written j) = s.unmappedVoice v := by
    simp only [State.unmappedVoice]
    congr 1
    funext j
    match j with
    | 0 => simp [Voice.written, Voice.emptyWritten]
    | 1 => simp [Voice.written, Voice.emptyWritten]
    | 2 => simp [Voice.written, Voice.emptyWritten]
  unfold Voice.settleWritten State.unwritten
  rw [settled]
  cases s.unmappedVoice v <;> rfl

theorem retrigger_voice (v : VoiceIx) (s : State) : (retrigger v s).voice v = s.gapped v (s.voice v) := by
  rw [retrigger, voice_modVoice_self, clearPitch_voice]
  rfl

theorem touches_beginNote (st : VoiceState) (p : PartIx) (n : NoteInfo) (v : VoiceIx) (s : State) :
    Touches (· = v) 0 s (beginNote st p n v s) :=
  (touches_clearPitch s v).trans (touches_modVoice _ v _)

/-- The record of a voice on which a note starts in a state other than the one it is in. -/
theorem beginNote_voice {st : VoiceState} (h : (s.voice v).state ≠ st) (p : PartIx) (n : NoteInfo) :
    ((beginNote st p n v s).voice v).regate s.running = s.startedRecord st p n v (s.voice v) := by
  rw [beginNote, voice_modVoice_self, clearPitch_voice, startGlide_eq, moveTo_of_ne (by exact h)]
  rfl

/-- A voice chosen for a fresh start takes its stamp and starts the note, one change of its record (R26, R27). -/
theorem assignFresh_touches (p : PartIx) (n : NoteInfo) (i k : Nat) (room : s.roomFor 1) :
    Touches (· = v) 1 s (assignFresh p n i k v s) :=
  (((touches_takeAge room).trans (touches_modVoice _ v _)).trans (touches_beginNote ..)).trans
    (touches_publishVoice _ v _)

theorem assignFresh_voice (p : PartIx) (n : NoteInfo) (i k : Nat) (room : s.roomFor 1)
    (h : (s.voice v).state ≠ .sounding) :
    (assignFresh p n i k v s).voice v =
      (s.startedRecord .sounding p n v
        { s.voice v with
          ageStamp := s.sequence + 1#32, unisonIndex := BitVec.ofNat 8 i, unisonCount := BitVec.ofNat 8 k }).counted := by
  have before := (touches_takeAge (v := v) room).trans
    (touches_modVoice _ v fun x => { x with unisonIndex := BitVec.ofNat 8 i, unisonCount := BitVec.ofNat 8 k })
  have record := voice_modVoice_self (takeAge v s) v
    fun x => { x with unisonIndex := BitVec.ofNat 8 i, unisonCount := BitVec.ofNat 8 k }
  rw [takeAge_voice room] at record
  rw [assignFresh, publishVoice_voice, (touches_beginNote ..).running,
    beginNote_voice (by rw [record]; exact h), before.startedRecord, record]
  exact publishedFrom_of_state (Ne.symm h)

/-! ### Steals (R25, R28, R30) -/

theorem touches_endDamp (v : VoiceIx) (s : State) : Touches (· = v) 0 s (endDamp v s) := by
  have start (st : VoiceState) (p : PartIx) (n : NoteInfo) (old : Voice) :
      Touches (· = v) 0 s ((beginNote st p n v s).publishVoice v old) :=
    (touches_beginNote st p n v s).trans (touches_publishVoice _ v old)
  unfold endDamp
  dsimp only
  split
  · split
    · exact start _ _ _ _
    · split
      · exact start _ _ _ _
      · exact touches_changeVoice s v _
  · exact touches_changeVoice s v _

/-- A stolen voice takes an age stamp, and a release stamp before it if its gate request was on (R4, R28). -/
theorem stealVoice_touches (p : PartIx) (n : NoteInfo) (i k : Nat) (room : s.roomFor ((s.voice v).gateRequest.toNat + 1)) :
    Touches (· = v) ((s.voice v).gateRequest.toNat + 1) s (stealVoice p n i k v s) := by
  have drop := touches_dropGate (room.mono (Nat.le_add_right _ 1))
  have stolen (f : Voice → Voice) (old : Voice) := ((drop.trans (touches_takeAge (drop.roomFor room))).trans
    (touches_modVoice _ v f)).trans (touches_publishVoice _ v old)
  unfold stealVoice
  dsimp only
  split
  · exact (stolen _ _).trans (touches_endDamp v _)
  · exact stolen _ _

/-! ### Reuse (R23, R42) -/

/-- The record of a voice that holds the note of a NOTE_ON, after its reuse with the age stamp `a` (R23). -/
def State.reused (s : State) (p : PartIx) (n : NoteInfo) (v : VoiceIx) (a : Long) : Voice :=
  let x := { s.voice v with ageStamp := a }
  match (s.voice v).state with
  | .releasing => (s.startedRecord .sounding p n v x).counted
  | .sounding | .held => (s.retriggered p false n v x).counted
  | .stealing => (({ x with pending := some ⟨n, false⟩ } : Voice).regate s.running).counted
  | .free | .tuning | .out => s.voice v

theorem reuseVoice_touches (p : PartIx) (n : NoteInfo) (room : s.roomFor 1) :
    Touches (· = v) 1 s (reuseVoice p n v s) := by
  have age := touches_takeAge (v := v) room
  have publish {t : State} (h : Touches (· = v) 1 s t) : Touches (· = v) 1 s (t.publishVoice v (s.voice v)) :=
    h.trans (touches_publishVoice t v _)
  have again (f : Voice → Voice) := age.trans ((touches_retrigger _ v).trans (touches_modVoice _ v f))
  unfold reuseVoice
  cases (s.voice v).state with
  | releasing => exact publish (age.trans (touches_beginNote ..))
  | sounding => exact publish (again _)
  | held => exact publish (again _)
  | stealing => exact publish (age.trans (touches_modVoice _ v _))
  | free => exact publish age
  | tuning => exact publish age
  | out => exact publish age

/-- A retrigger gap, what `f` makes of the record, and the publication of both (R42). -/
theorem retrigger_published (s : State) (v : VoiceIx) (f : Voice → Voice) (old : Voice) :
    (((retrigger v s).modVoice v f).publishVoice v old).voice v =
      old.publishedFrom ((f (s.gapped v (s.voice v))).regate s.running) := by
  rw [publishVoice_voice, voice_modVoice_self, modVoice_running, (touches_retrigger s v).running, retrigger_voice]

/-- The record of a voice that takes a note with a retrigger gap, in SOUNDING as it is or on the way there from
HELD (R23, R40, R42). -/
theorem retriggered_eq (s : State) (p : PartIx) (connected : Bool) (n : NoteInfo) (v : VoiceIx) (x : Voice) :
    ((s.pitched p connected n.note { s.gapped v x with note := some n }).moveTo .sounding).regate s.running =
      s.retriggered p connected n v x := by
  unfold State.retriggered
  dsimp only
  by_cases h : x.state = .sounding
  · rw [moveTo_self (by exact h), if_pos h]
    rfl
  · rw [moveTo_of_ne (by exact h), if_neg h]
    rfl

theorem retriggered_ageStamp (s : State) (p : PartIx) (connected : Bool) (n : NoteInfo) (v : VoiceIx) (x : Voice) :
    (s.retriggered p connected n v x).ageStamp = x.ageStamp := by
  rw [← retriggered_eq]
  unfold Voice.moveTo
  split <;> rfl

/-- A voice that holds the note takes a fresh age stamp, which differs from its old one, and the note in the way of
its state, one change of its record (R23). -/
theorem reuseVoice_voice {p : PartIx} {n : NoteInfo} (room : s.roomFor 1) (holds : holdsNote (s.voice v) n.note = true)
    (fresh : s.sequence + 1#32 ≠ (s.voice v).ageStamp) :
    (reuseVoice p n v s).voice v = s.reused p n v (s.sequence + 1#32) := by
  have age := touches_takeAge (v := v) room
  have record := takeAge_voice (v := v) room
  have again (h : (s.voice v).state = .sounding ∨ (s.voice v).state = .held) :
      (reuseVoice p n v s).voice v =
        (s.retriggered p false n v { s.voice v with ageStamp := s.sequence + 1#32 }).counted := by
    have same : reuseVoice p n v s =
        ((retrigger v (takeAge v s)).modVoice v fun x =>
          (startGlide (liveOf s p) false n.note { x with note := some n }).moveTo .sounding).publishVoice v
            (s.voice v) := by
      rcases h with h | h <;> simp only [reuseVoice, h]
    rw [same, retrigger_published, age.running, age.gapped, record, startGlide_eq, retriggered_eq]
    exact publishedFrom_of_ageStamp (by rw [retriggered_ageStamp]; exact fresh)
  unfold State.reused
  dsimp only
  split
  next h =>
    have starts : reuseVoice p n v s =
        (beginNote .sounding p n v (takeAge v s)).publishVoice v (s.voice v) := by simp only [reuseVoice, h]
    rw [starts, publishVoice_voice, (touches_beginNote ..).running, beginNote_voice (by rw [record]; simp [h]),
      age.startedRecord, record]
    exact publishedFrom_of_ageStamp (by exact fresh)
  next h => exact again (.inl h)
  next h => exact again (.inr h)
  next h =>
    have waits : reuseVoice p n v s =
        ((takeAge v s).modVoice v fun x => { x with pending := some ⟨n, false⟩ }).publishVoice v (s.voice v) := by
      simp only [reuseVoice, h]
    rw [waits, publishVoice_voice, voice_modVoice_self, modVoice_running, age.running, record]
    exact publishedFrom_of_ageStamp (by exact fresh)
  all_goals simp_all [holdsNote]

/-! ### The mono set (R40, R42) -/

theorem followPriority_touches (p : PartIx) (n : Key) (entry : Option NoteInfo) (connected : Bool) (v : VoiceIx)
    (s : State) : Touches (· = v) 0 s (followPriority p n entry connected v s) := by
  have again (f : Voice → Voice) (old : Voice) :=
    ((touches_retrigger s v).trans (touches_modVoice _ v f)).trans (touches_publishVoice _ v old)
  unfold followPriority
  cases (s.voice v).state with
  | sounding =>
    dsimp only
    split
    · exact touches_changeVoice s v _
    · exact again _ _
  | held => exact again _ _
  | stealing => exact touches_changeVoice s v _
  | free => exact .refl s
  | releasing => exact .refl s
  | tuning => exact .refl s
  | out => exact .refl s

/-- The note that a voice playing the record `x` takes when the priority note becomes `n` (R40). -/
def Voice.renoted (n : Key) (entry : Option NoteInfo) (x : Voice) : NoteInfo :=
  entry.getD { x.note.getD ⟨n, 0, 0#16⟩ with note := n }

theorem renoted_note {n : Key} {entry : Option NoteInfo} (note : ∀ e, entry = some e → e.note = n) (x : Voice) :
    (x.renoted n entry).note = n := by
  unfold Voice.renoted
  cases entry with
  | none => rfl
  | some e => exact note e rfl

theorem followed_of_sounding {x : Voice} (h : x.state = .sounding) (s : State) (p : PartIx) (n : Key)
    (entry : Option NoteInfo) (connected : Bool) (v : VoiceIx) :
    s.followed p n entry connected v x =
      if decodeLegato (s.param p pLegato) && connected then
        (s.pitched p true n { x with note := some (x.renoted n entry) }).regate s.running
      else s.retriggered p connected (x.renoted n entry) v x := by
  simp only [State.followed, h]
  rfl

theorem followed_of_held {x : Voice} (h : x.state = .held) (s : State) (p : PartIx) (n : Key)
    (entry : Option NoteInfo) (connected : Bool) (v : VoiceIx) :
    s.followed p n entry connected v x = s.retriggered p connected (x.renoted n entry) v x := by
  simp only [State.followed, h]
  rfl

/-- A voice of the mono set follows the priority note by its state; the entry whose velocity and tag it takes is one of
that note (R40). -/
theorem followPriority_voice {p : PartIx} {n : Key} {entry : Option NoteInfo} (connected : Bool)
    (note : ∀ e, entry = some e → e.note = n) (playing : (s.voice v).state.playing = true) :
    (followPriority p n entry connected v s).voice v =
      (s.voice v).publishedFrom (s.followed p n entry connected v (s.voice v)) := by
  unfold followPriority
  split
  next h =>
    rw [followed_of_sounding h]
    dsimp only
    by_cases legato : (decodeLegato (s.param p pLegato) && connected) = true
    · rw [if_pos legato, if_pos legato, changeVoice_voice, (Bool.and_eq_true_iff.1 legato).2]
      rfl
    · rw [if_neg legato, if_neg legato, retrigger_published, ← retriggered_eq, renoted_note note, moveTo_self (by exact h)]
      rfl
  next h =>
    rw [followed_of_held h, retrigger_published, ← retriggered_eq, renoted_note note]
    rfl
  next h =>
    rw [changeVoice_voice]
    simp only [State.followed, h]
  all_goals simp_all [VoiceState.playing]

/-- A voice outside the mono set does not follow (R38, R40). -/
theorem followed_of_not_playing {x : Voice} (h : x.state.playing = false) (s : State) (p : PartIx) (n : Key)
    (entry : Option NoteInfo) (connected : Bool) (v : VoiceIx) : s.followed p n entry connected v x = x := by
  unfold State.followed
  cases e : x.state <;> first | rfl | exact absurd (e ▸ h) nofun

/-! ### Releases (R29, R31, R33) -/

theorem setPendingOff_touches (v : VoiceIx) (s : State) : Touches (· = v) 0 s (setPendingOff v s) :=
  touches_changeVoice s v _

/-- How many stamps the release of voice `v`'s key takes (R4, R31): none under sustain. -/
def State.releaseCount (s : State) (p : PartIx) (v : VoiceIx) : Nat :=
  (!(s.part p).sustain && (s.voice v).gateRequest).toNat

/-- The record of a SOUNDING voice whose key is released, with the release stamp `r` where its gate request falls
(R31, R33). -/
def State.keyReleased (s : State) (p : PartIx) (v : VoiceIx) (r : Long) : Voice :=
  if (s.part p).sustain then (((s.voice v).into .held).regate s.running).counted
  else s.released p (if (s.voice v).gateRequest then r else (s.voice v).releaseStamp) (s.voice v)

theorem releaseVoice_touches (p : PartIx) (room : s.roomFor (s.voice v).gateRequest.toNat) :
    Touches (· = v) (s.voice v).gateRequest.toNat s (releaseVoice p v s) := by
  have first (f : Voice → Voice) (old : Voice) := ((touches_dropGate room).trans (touches_modVoice _ v f)).trans
    (touches_publishVoice _ v old)
  unfold releaseVoice
  dsimp only
  split
  · exact (first _ _).trans (touches_changeVoice _ v _)
  · exact first _ _

theorem releaseKey_touches (p : PartIx) (room : s.roomFor (s.releaseCount p v)) :
    Touches (· = v) (s.releaseCount p v) s (releaseKey p v s) := by
  unfold releaseKey
  unfold State.releaseCount at room ⊢
  cases h : (s.part p).sustain with
  | true => exact touches_changeVoice s v _
  | false =>
    rw [h] at room
    exact releaseVoice_touches p room

/-- With the gate request off the gate is closed (R74). -/
theorem gateRule_of_no_request {x : Voice} (h : x.gateRequest = false) (run : Bool) : x.gateRule run = false := by
  simp [Voice.gateRule, h]

/-- A SOUNDING voice enters its release window; one of 0 ms is over at once (R31). -/
theorem releaseVoice_voice {p : PartIx} (room : s.roomFor (s.voice v).gateRequest.toNat)
    (sounding : (s.voice v).state = .sounding) :
    (releaseVoice p v s).voice v =
      s.released p (if (s.voice v).gateRequest then s.sequence + 1#32 else (s.voice v).releaseStamp) (s.voice v) := by
  have drop := touches_dropGate room
  have first : (((dropGate v s).modVoice v fun x =>
      ({ x with window := some (decodeWindow (s.param p pReleaseWindow)) } : Voice).moveTo .releasing).publishVoice v
        (s.voice v)).voice v =
      ({ (s.voice v).into .releasing with
          gateRequest := false, gateOut := false
          releaseStamp := if (s.voice v).gateRequest then s.sequence + 1#32 else (s.voice v).releaseStamp
          window := some (decodeWindow (s.param p pReleaseWindow)) } : Voice).counted := by
    rw [publishVoice_voice, voice_modVoice_self, modVoice_running, drop.running, dropGate_voice room,
      moveTo_of_ne (by simp [sounding]), Voice.regate, gateRule_of_no_request rfl,
      publishedFrom_of_state (by rw [sounding]; nofun)]
    rfl
  have touched := (drop.trans (touches_modVoice _ v fun x =>
    ({ x with window := some (decodeWindow (s.param p pReleaseWindow)) } : Voice).moveTo .releasing)).trans
      (touches_publishVoice _ v (s.voice v))
  unfold releaseVoice State.released
  dsimp only
  split
  · rw [endWindow, changeVoice_voice, first, touched.running, touched.frame.time, Voice.enterFree,
      moveTo_of_ne (by exact nofun), Voice.regate, gateRule_of_no_request rfl, publishedFrom_of_state (by exact nofun)]
    rfl
  · exact first

theorem releaseKey_voice {p : PartIx} (room : s.roomFor (s.releaseCount p v))
    (sounding : (s.voice v).state = .sounding) :
    (releaseKey p v s).voice v = s.keyReleased p v (s.sequence + 1#32) := by
  unfold releaseKey State.keyReleased
  unfold State.releaseCount at room
  cases h : (s.part p).sustain with
  | true =>
    rw [if_pos rfl, if_pos rfl, changeVoice_voice, moveTo_of_ne (by simp [sounding]),
      publishedFrom_of_state (by rw [sounding]; nofun)]
  | false =>
    rw [h] at room
    exact releaseVoice_voice room sounding

/-- The record of a STEALING voice whose pending note has been released (R33, R41). -/
def State.markedOff (s : State) (v : VoiceIx) : Voice :=
  (s.voice v).publishedFrom
    (({ s.voice v with pending := (s.voice v).pending.map fun q => { q with off := true } } : Voice).regate s.running)

theorem setPendingOff_voice (v : VoiceIx) (s : State) : (setPendingOff v s).voice v = s.markedOff v :=
  changeVoice_voice s v _

end Sys2Proof.Machine
end

section
/-! PROOFS. One NOTE_ON or NOTE_OFF on its part: the state in which it finds the part latched, with its note in the
held-note list, which of its three ways it goes, and what its end leaves (R21, R22, R38, R44). -/

namespace Sys2Proof.Machine

variable {s t : State} {p : PartIx} {e : StreamEntry}

/-! ### The commands -/

/-- A NOTE_ON of nonzero velocity plays its note on its part. -/
theorem exec_of_playsNote (h : s.playsNote p e) :
    exec .noteOn s = .next (passEntry (onPart p (playNote p e.info) s)) := by
  obtain ⟨reads, kind, part, velocity⟩ := h
  have run := exec_entry_of_reads reads
  rw [kind] at run
  refine run.trans (congrArg (fun u => Host.Outcome.next (passEntry u)) ?_)
  show applyNoteOn e s = _
  simp only [applyNoteOn, applyParts, part, velocity, if_false]
  rfl

/-- A NOTE_OFF, or a NOTE_ON of velocity 0, releases its note on its part (R20). -/
theorem exec_of_releasesNote {n : Key} {c : Instr} (h : s.releasesNote p n c) :
    exec c s = .next (passEntry (onPart p (stopNote p n) s)) := by
  obtain ⟨e, reads, part, rfl, way⟩ := h
  have run := exec_entry_of_reads reads
  rcases way with ⟨rfl, kind⟩ | ⟨rfl, kind, velocity⟩ <;> rw [kind] at run <;>
    refine run.trans (congrArg (fun u => Host.Outcome.next (passEntry u)) ?_)
  · show applyNoteOff e s = _
    simp only [applyNoteOff, applyParts, part]
    rfl
  · show applyNoteOn e s = _
    simp only [applyNoteOn, applyParts, part, velocity, if_true]
    rfl

/-! ### The part that the note meets -/

theorem setPart_part (s : State) (p : PartIx) : s.setPart p (s.part p) = s := by
  simp only [State.setPart, State.part]
  rw [show s.parts.set p s.parts[p] = s.parts from Vector.set_getElem_self ..]

theorem setPart_setPart (s : State) (p : PartIx) (x y : Part) : (s.setPart p x).setPart p y = s.setPart p y := by
  simp [State.setPart]

/-- The latch makes the part of an idle one, and leaves any other (R21). -/
theorem latchMode_if_idle (s : State) (p : PartIx) :
    (if s.idlePart p then latchMode p s else s) = s.setPart p (s.latched p) := by
  unfold State.latched
  cases s.idlePart p with
  | true => rfl
  | false => exact (setPart_part s p).symm

theorem latched_of_playing (h : s.idlePart p = false) : s.latched p = s.part p := by
  unfold State.latched
  rw [h]
  rfl

theorem entered_of_poly (h : (s.latched p).mode = .poly) (e : StreamEntry) : s.entered p e = s.latched p := if_pos h

theorem entered_of_mono (h : (s.latched p).mode ≠ .poly) (e : StreamEntry) :
    s.entered p e = { s.latched p with held := heldInsert e.info.note (s.latched p).held } := if_neg h

theorem playNote_of_poly (h : (s.latched p).mode = .poly) (n : NoteInfo) :
    playNote p n s = polyNoteOn p n (s.setPart p (s.latched p)) := by
  unfold playNote
  dsimp only
  rw [latchMode_if_idle, part_setPart_self, if_pos h]

theorem playNote_of_mono (h : (s.latched p).mode ≠ .poly) (n : NoteInfo) :
    playNote p n s = monoNoteOn p n (s.idlePart p) (s.setPart p (s.latched p)) := by
  unfold playNote
  dsimp only
  rw [latchMode_if_idle, part_setPart_self, if_neg h]

/-- The note enters the held-note list of a mono part (R38). -/
theorem enter_latched (h : (s.latched p).mode ≠ .poly) (e : StreamEntry) :
    ((s.setPart p (s.latched p)).modPart p fun x => { x with held := heldInsert e.info.note x.held }) =
      s.setPart p (s.entered p e) := by
  rw [State.modPart, part_setPart_self, setPart_setPart, entered_of_mono h]

/-! ### The choice of voices -/

theorem voicesOf_sorted (s : State) (p : PartIx) : (s.voicesOf p).Pairwise (· < ·) :=
  (List.pairwise_lt_finRange 16).filter _

theorem mem_voicesOf {v : VoiceIx} : v ∈ s.voicesOf p ↔ (s.voice v).part = some p := by simp [State.voicesOf]

/-- The choice looks at the voices and the tune engine alone. -/
theorem chooseVoices_setPart (s : State) (p : PartIx) (x : Part) (k : Nat) (vs : List VoiceIx) :
    chooseVoices (s.setPart p x) k vs = chooseVoices s k vs := by
  induction k generalizing vs with
  | zero => rfl
  | succ k ih =>
    simp only [chooseVoices, ih]
    rfl

/-- The voices chosen are candidates, each chosen once (R24, R25). -/
theorem chooseVoices_spec (s : State) (k : Nat) {vs : List VoiceIx} (sorted : vs.Pairwise (· < ·)) :
    (chooseVoices s k vs).Nodup ∧ ∀ v ∈ chooseVoices s k vs, v ∈ vs ∧ s.tier v ≠ none := by
  induction k generalizing vs with
  | zero => exact ⟨List.nodup_nil, nofun⟩
  | succ k ih =>
    unfold chooseVoices
    cases h : tierSearch s vs with
    | none => exact ⟨List.nodup_nil, nofun⟩
    | some v =>
      obtain ⟨nodup, rest⟩ := ih (sorted.filter fun w => w != v)
      obtain ⟨mem, x, tier, -⟩ := (tierSearch_picks s sorted).2 v h
      refine ⟨List.nodup_cons.2 ⟨fun hv => by simpa using (rest v hv).1, nodup⟩, fun w hw => ?_⟩
      rcases List.mem_cons.1 hw with rfl | hw
      · exact ⟨mem, by rw [tier]; nofun⟩
      · exact ⟨List.mem_of_mem_filter (rest w hw).1, (rest w hw).2⟩

theorem chosen_nodup (s : State) (p : PartIx) : (s.chosen p).Nodup := (chooseVoices_spec s _ (voicesOf_sorted s p)).1

theorem part_of_mem_chosen {v : VoiceIx} (h : v ∈ s.chosen p) : (s.voice v).part = some p :=
  mem_voicesOf.1 ((chooseVoices_spec s _ (voicesOf_sorted s p)).2 v h).1

theorem tier_of_mem_chosen {v : VoiceIx} (h : v ∈ s.chosen p) : s.tier v ≠ none :=
  ((chooseVoices_spec s _ (voicesOf_sorted s p)).2 v h).2

/-! ### The three ways of a NOTE_ON -/

/-- Looking for voices, the note is dropped where there is none to choose, and is assigned to those chosen. -/
theorem playNote_of_allocates (h : s.allocates p e) :
    playNote p e.info s =
      if s.chosen p = [] then dropNote p (s.setPart p (s.entered p e))
      else assignAll p (s.played p e) (s.chosen p).length 0 (s.chosen p) (s.setPart p (s.entered p e)) := by
  have chosen (n : NoteInfo) : allocate p n (s.setPart p (s.entered p e)) =
      if s.chosen p = [] then dropNote p (s.setPart p (s.entered p e))
      else assignAll p n (s.chosen p).length 0 (s.chosen p) (s.setPart p (s.entered p e)) := by
    have unison : (s.entered p e).unison = (s.latched p).unison := by unfold State.entered; split <;> rfl
    unfold allocate
    dsimp only
    rw [part_setPart_self, unison, chooseVoices_setPart]
    simp only [List.isEmpty_iff]
    rfl
  rw [← chosen]
  unfold State.allocates at h
  by_cases poly : (s.latched p).mode = .poly
  · rw [if_pos poly] at h
    rw [playNote_of_poly poly, ← entered_of_poly poly e, State.played, if_pos poly, polyNoteOn]
    exact if_pos (by rw [List.isEmpty_iff]; exact h)
  · rw [if_neg poly] at h
    rw [playNote_of_mono poly, monoNoteOn, enter_latched poly, h, part_setPart_self, State.played, if_neg poly,
      entered_of_mono poly]
    rfl

/-- Where voices of a POLY part hold the note, they are reused (R23). -/
theorem playNote_of_holders (poly : (s.latched p).mode = .poly) (h : s.holders p e.info.note ≠ []) :
    playNote p e.info s =
      (s.holders p e.info.note).foldl (fun t v => reuseVoice p e.info v t) (s.setPart p (s.entered p e)) := by
  rw [playNote_of_poly poly, ← entered_of_poly poly e, polyNoteOn]
  exact if_neg (by rw [List.isEmpty_iff]; exact h)

/-- On a mono part that plays, the mono set follows the held-note list (R40). -/
theorem playNote_of_playing (mono : (s.latched p).mode ≠ .poly) (h : s.idlePart p = false) :
    playNote p e.info s = followList p (s.part p).held (some e.info) (s.setPart p (s.entered p e)) := by
  rw [playNote_of_mono mono, monoNoteOn, enter_latched mono, h, latched_of_playing h, setPart_part]
  rfl

/-! ### What the end of an entry leaves -/

theorem publishPart_voice (s : State) (p : PartIx) (old : Part) (v : VoiceIx) :
    (s.publishPart p old).voice v = s.voice v :=
  publishPart_keeps (fun t => t.voice v) s p old fun _ _ => rfl

/-- A publication of a part changes its record and the page alone. -/
theorem publishPart_eq (s : State) (p : PartIx) (old : Part) :
    s.publishPart p old =
      { s with parts := (s.publishPart p old).parts, page := (s.publishPart p old).page } :=
  (publishPart_frame (F := { parts := true }) rfl (fun _ h => h) old s).eq

/-- In its own record a publication changes the change count alone. -/
theorem publishPart_part (s : State) (p : PartIx) (old : Part) :
    (s.publishPart p old).part p = { s.part p with changeCount := ((s.publishPart p old).part p).changeCount } := by
  rw [publishPart_part_self]
  split <;> rfl

theorem sameOutside_of_page {B : Nat → Prop} {area : Nat → Prop} {g h : Page}
    (page : ∀ P, WordsKeep B P → P g → P h) (hB : ∀ w k, B w → k = 2 * w ∨ k = 2 * w + 1 → area k) :
    sameOutside area g h := fun k hk =>
  page (fun q => Page.readByte q k = Page.readByte g k)
    (wordsKeep_readByte (fun w hw => by
      rw [← not_or]
      exact fun e => hk (hB w k hw e)) _) rfl

theorem inVoice_of_voiceArea {v : VoiceIx} {w k : Nat} (h : voiceArea v w) (hk : k = 2 * w ∨ k = 2 * w + 1) :
    inVoice v k := by
  unfold voiceArea at h
  unfold inVoice inWords
  omega

theorem inPart_of_partArea {p : PartIx} {w k : Nat} (h : partArea p w) (hk : k = 2 * w ∨ k = 2 * w + 1) :
    inPart p k := by
  unfold partArea at h
  unfold inPart inWords
  omega

/-- From `s` to `u` an entry has left part `p` as `x`, has touched only voices that `A` picks out and has issued `n`
stamps. -/
structure EntryLeaves (p : PartIx) (x : Part) (A : VoiceIx → Prop) (n : Nat) (s u : State) : Prop where
  part : u.part p = { x with changeCount := (u.part p).changeCount }
  others : ∀ q, q ≠ p → u.part q = s.part q
  voice : ∀ v, ¬ A v → u.voice v = s.voice v
  sequence : u.sequence = s.sequence + BitVec.ofNat 32 n
  eq : u = { s with
             voices := u.voices, parts := u.parts, page := u.page, sequence := u.sequence
             refresh := { s.refresh with turn := u.refresh.turn } }
  page : sameOutside (fun k => inPart p k ∨ ∃ v, A v ∧ inVoice v k) s.page u.page

/-- An entry that has touched voices ends with the publication of its part (R44). -/
theorem Touches.entryLeaves {x : Part} {A : VoiceIx → Prop} {n : Nat} (h : Touches A n (s.setPart p x) t) :
    EntryLeaves p x A n s (t.publishPart p (s.part p)) where
  part := by
    have record := publishPart_part t p (s.part p)
    rwa [h.part, part_setPart_self] at record
  others q hq := by rw [publishPart_part_ne _ hq, h.part, part_setPart_ne _ hq]
  voice v hv := by rw [publishPart_voice, h.voice v hv, voice_setPart]
  sequence := (publishPart_keeps State.sequence t p _ fun _ _ => rfl).trans h.sequence
  eq := by
    obtain ⟨parts, page, reached⟩ :
        ∃ parts page, t.publishPart p (s.part p) = { t with parts := parts, page := page } :=
      ⟨_, _, publishPart_eq t p (s.part p)⟩
    rw [reached]
    dsimp only
    conv_lhs => rw [h.eq]
    rfl
  page := by
    refine sameOutside_of_page (B := fun w => partArea p w ∨ voiceAreas A w)
      (fun P hP hp => publishPart_page t p _ (hP.mono fun _ => .inl) (h.frame.page P (hP.mono fun _ => .inr) hp)) ?_
    rintro w k (hw | ⟨v, hv, hw⟩) hk
    · exact .inl (inPart_of_partArea hw hk)
    · exact .inr ⟨v, hv, inVoice_of_voiceArea hw hk⟩

end Sys2Proof.Machine
end

section
/-! PROOFS. A NOTE_ON that looks for voices: what becomes of each chosen voice by the state it stands in, and the start
or the drop of the note (R24 to R28, R30). -/

namespace Sys2Proof.Machine

variable {s t : State} {v : VoiceIx} {p : PartIx}

/-! ### A stolen voice (R25, R28, R30) -/

/-- A damp that ends with the key down starts the pending note (R30). -/
theorem endDamp_of_down {n : NoteInfo} (pending : (s.voice v).pending = some ⟨n, false⟩)
    (part : (s.voice v).part = some p) : endDamp v s = startNote p n v s := by
  simp only [endDamp, pending, part]
  rfl

theorem startNote_voice {n : NoteInfo} (h : (s.voice v).state ≠ .sounding) :
    (startNote p n v s).voice v = (s.startedRecord .sounding p n v (s.voice v)).counted := by
  rw [startNote, publishVoice_voice, (touches_beginNote ..).running, beginNote_voice h]
  exact publishedFrom_of_state (Ne.symm h)

/-- The record of a voice of part `p` that is stolen with the counter at `s.sequence` (R28, R30). -/
theorem stealVoice_voice {n : NoteInfo} (i k : Nat) (room : s.roomFor ((s.voice v).gateRequest.toNat + 1))
    (part : (s.voice v).part = some p) (state : (s.voice v).state ≠ .stealing)
    (busy : ¬ ((s.voice v).state = .free ∨ (s.voice v).state = .tuning)) :
    (stealVoice p n i k v s).voice v = s.assigned p n i k s.sequence v := by
  have drop := touches_dropGate (room.mono (Nat.le_add_right _ 1))
  have droppedRecord := dropGate_voice (room.mono (Nat.le_add_right _ 1))
  have age := drop.trans (touches_takeAge (v := v) (drop.roomFor room))
  have agedRecord := takeAge_voice (v := v) (drop.roomFor room)
  rw [droppedRecord, drop.sequence] at agedRecord
  let stolen := ((takeAge v (dropGate v s)).modVoice v fun x =>
    ({ x with
        window := none
        pending := some ⟨n, false⟩
        damp := some (decodeDamp (s.param p pDampTime))
        unisonIndex := BitVec.ofNat 8 i
        unisonCount := BitVec.ofNat 8 k } : Voice).moveTo .stealing).publishVoice v (s.voice v)
  have touched : Touches (· = v) _ s stolen := (age.trans (touches_modVoice _ v _)).trans (touches_publishVoice _ v _)
  have record : stolen.voice v =
      (s.stolen p n i k (if (s.voice v).gateRequest then s.sequence + 1#32 else (s.voice v).releaseStamp)
        (if (s.voice v).gateRequest then s.sequence + 2#32 else s.sequence + 1#32) (s.voice v)).counted := by
    rw [publishVoice_voice, voice_modVoice_self, modVoice_running, age.running, agedRecord,
      moveTo_of_ne (by exact state), Voice.regate, gateRule_of_no_request rfl,
      publishedFrom_of_state (by exact Ne.symm state)]
    cases h : (s.voice v).gateRequest with
    | false => simp [State.stolen, Voice.into]
    | true => simp [State.stolen, Voice.into, BitVec.add_assoc]
  have ended : stealVoice p n i k v s = if decodeDamp (s.param p pDampTime) = 0 then endDamp v stolen else stolen := rfl
  rw [ended, State.assigned, if_neg busy]
  by_cases damp : decodeDamp (s.param p pDampTime) = 0
  · rw [if_pos damp, if_pos damp, endDamp_of_down (n := n) (p := p) (by rw [record]; rfl) (by rw [record]; exact part),
      startNote_voice (by rw [record]; exact nofun), touched.startedRecord, record]
  · rw [if_neg damp, if_neg damp, record]

/-! ### The chosen voices, one after another -/

theorem Touches.stolen {A : VoiceIx → Prop} {n : Nat} (h : Touches A n s t) : t.stolen = s.stolen := by rw [h.eq]; rfl

/-- What becomes of a chosen voice does not depend on the voices taken before it. -/
theorem Touches.assigned {A : VoiceIx → Prop} {m : Nat} (h : Touches A m s t) (hv : t.voice v = s.voice v)
    (n : NoteInfo) (i k : Nat) (q : Long) : t.assigned p n i k q v = s.assigned p n i k q v := by
  unfold State.assigned
  rw [hv, h.startedRecord, h.stolen, h.param]

theorem stampsOf_congr (h : t.voice v = s.voice v) : t.stampsOf v = s.stampsOf v := by
  unfold State.stampsOf
  rw [h]

theorem stampsOf_of_fresh (h : (s.voice v).state = .free ∨ (s.voice v).state = .tuning) : s.stampsOf v = 1 := if_pos h

theorem stampsOf_of_busy (h : ¬ ((s.voice v).state = .free ∨ (s.voice v).state = .tuning)) :
    s.stampsOf v = (s.voice v).gateRequest.toNat + 1 := by
  unfold State.stampsOf
  rw [if_neg h]
  cases (s.voice v).gateRequest <;> rfl

/-- The tune engine works on no target of voice `v`, so that a choice of `v` abandons none (R27). -/
def State.noTargetOf (s : State) (v : VoiceIx) : Prop := ∀ j, s.tune.job = some j → voiceOf j.target ≠ v

theorem yieldTarget_of_noTarget (h : s.noTargetOf v) : yieldTarget v s = s := by
  unfold yieldTarget
  cases e : s.tune.job with
  | none => rfl
  | some j => exact if_neg (h j e)

/-- The states in which the tier search finds candidates (R24). -/
def VoiceState.choosable : VoiceState → Bool
  | .free | .tuning | .releasing | .held | .sounding => true
  | .stealing | .out => false

theorem choosable_of_tier (h : s.tier v ≠ none) : (s.voice v).state.choosable = true := by
  unfold State.tier at h
  cases e : (s.voice v).state <;> simp_all [VoiceState.choosable]

theorem choosable_of_mem_chosen (h : v ∈ s.chosen p) : (s.voice v).state.choosable = true :=
  choosable_of_tier (tier_of_mem_chosen h)

/-- A voice that can be chosen is FREE or TUNING, or else RELEASING, HELD or SOUNDING. -/
theorem choosable_cases {x : VoiceState} (h : x.choosable = true) :
    (x = .free ∨ x = .tuning) ∨ (x = .releasing ∨ x = .held ∨ x = .sounding) := by
  cases x <;> simp_all [VoiceState.choosable]

/-- A chosen voice is started or stolen by its state, where no target of it is abandoned (R25, R27, R28). -/
theorem assignVoice_spec (n : NoteInfo) (i k : Nat) (part : (s.voice v).part = some p)
    (candidate : (s.voice v).state.choosable = true) (noTarget : (s.voice v).state = .tuning → s.noTargetOf v)
    (room : s.roomFor (s.stampsOf v)) :
    Touches (· = v) (s.stampsOf v) s (assignVoice p n i k v s) ∧
      (assignVoice p n i k v s).voice v = s.assigned p n i k s.sequence v := by
  rcases choosable_cases candidate with fresh | busy
  · rw [stampsOf_of_fresh fresh] at room ⊢
    have touched := assignFresh_touches (v := v) p n i k room
    have same : assignVoice p n i k v s = assignFresh p n i k v s := by
      unfold assignVoice
      rcases fresh with h | h <;> rw [h]
      exact yieldTarget_of_noTarget fun j hj => noTarget h j (by rw [← touched.tune]; exact hj)
    rw [same, State.assigned, if_pos fresh]
    exact ⟨touched, assignFresh_voice p n i k room (by rcases fresh with h | h <;> rw [h] <;> nofun)⟩
  · have old : ¬ ((s.voice v).state = .free ∨ (s.voice v).state = .tuning) := by
      rcases busy with h | h | h <;> rw [h] <;> nofun
    have same : assignVoice p n i k v s = stealVoice p n i k v s := by
      unfold assignVoice
      rcases busy with h | h | h <;> rw [h]
    rw [stampsOf_of_busy old] at room ⊢
    rw [same]
    exact ⟨stealVoice_touches p n i k room,
      stealVoice_voice i k room part (by rcases busy with h | h | h <;> rw [h] <;> nofun) old⟩

theorem assignAll_eq_foldl (p : PartIx) (n : NoteInfo) (k i : Nat) (vs : List VoiceIx) (s : State) :
    assignAll p n k i vs s = (vs.zipIdx i).foldl (fun t b => assignVoice p n b.2 k b.1 t) s := by
  induction vs generalizing i s with
  | nil => rfl
  | cons v vs ih => exact ih (i + 1) (assignVoice p n i k v s)

theorem assignAll_append (p : PartIx) (n : NoteInfo) (k i : Nat) (vs ws : List VoiceIx) (s : State) :
    assignAll p n k i (vs ++ ws) s = assignAll p n k (i + vs.length) ws (assignAll p n k i vs s) := by
  simp only [assignAll_eq_foldl, List.zipIdx_append, List.foldl_append]

/-- The chosen voices take the note in the order chosen, each as it stood before the NOTE_ON (R25). -/
theorem assignAll_spec (n : NoteInfo) (k i : Nat) {vs : List VoiceIx} (nodup : vs.Nodup)
    (part : ∀ v ∈ vs, (s.voice v).part = some p) (candidate : ∀ v ∈ vs, (s.voice v).state.choosable = true)
    (noTarget : ∀ v ∈ vs, (s.voice v).state = .tuning → s.noTargetOf v) (room : s.roomFor (vs.map s.stampsOf).sum) :
    Touches (· ∈ vs) (vs.map s.stampsOf).sum s (assignAll p n k i vs s) ∧
      ∀ (j : Nat) (h : j < vs.length),
        (assignAll p n k i vs s).voice vs[j] = s.assigned p n (i + j) k (s.stampBefore vs j) vs[j] := by
  have keys : (vs.zipIdx i).map Prod.fst = vs := List.zipIdx_map_fst i vs
  have counts (l : List (VoiceIx × Nat)) : l.map (fun b => s.stampsOf b.1) = (l.map Prod.fst).map s.stampsOf := by
    rw [List.map_map]; rfl
  have fold := foldl_touches (s := s) Prod.fst (fun b => s.stampsOf b.1)
    (fun b m => s.assigned p n b.2 k (s.sequence + BitVec.ofNat 32 m) b.1)
    (fun t b => assignVoice p n b.2 k b.1 t) (vs.zipIdx i) (by rwa [keys]) ?_
  · rw [← assignAll_eq_foldl, counts, keys] at fold
    refine ⟨fold.1, fun j h => ?_⟩
    have record := fold.2 j (by rwa [List.length_zipIdx])
    rw [counts, List.map_take, keys, List.getElem_zipIdx] at record
    exact record
  · intro b hb A m t touched same hm
    have mem : b.1 ∈ vs := by rw [← keys]; exact List.mem_map_of_mem hb
    rw [counts, keys] at hm
    have spec := assignVoice_spec (s := t) n b.2 k (by rw [same]; exact part _ mem)
      (by rw [same]; exact candidate _ mem)
      (fun tuning j hj => noTarget _ mem (by rw [← same]; exact tuning) j (by rw [← touched.tune]; exact hj))
      (touched.roomFor (by rw [stampsOf_congr same]; exact room.mono hm))
    rwa [stampsOf_congr same, touched.sequence, touched.assigned same] at spec

/-! ### The start of a note on FREE voices -/

theorem sum_stampsOf_free {vs : List VoiceIx} (free : ∀ v ∈ vs, (s.voice v).state = .free) :
    (vs.map s.stampsOf).sum = vs.length := by
  rw [List.map_congr_left fun v hv => stampsOf_of_fresh (.inl (free v hv)), List.map_const', List.sum_replicate,
    smul_eq_mul, Nat.mul_one]

/-- The record of a FREE voice that is chosen (R26). -/
theorem assigned_of_fresh (h : (s.voice v).state = .free ∨ (s.voice v).state = .tuning) (n : NoteInfo) (i k : Nat)
    (q : Long) :
    s.assigned p n i k q v =
      (s.startedRecord .sounding p n v
        { s.voice v with
          ageStamp := q + 1#32, unisonIndex := BitVec.ofNat 8 i, unisonCount := BitVec.ofNat 8 k }).counted :=
  if_pos h

/-- The drop of a note leaves its part with the count of dropped notes advanced, and VOICE set (R28). -/
theorem dropNote_entered (s : State) (p : PartIx) (e : StreamEntry) :
    dropNote p (s.setPart p (s.entered p e)) =
      setCause causeVoice (s.setPart p { s.entered p e with dropped := satInc (s.part p).dropped }) := by
  have dropped : (s.entered p e).dropped = (s.part p).dropped := by
    unfold State.entered State.latched
    split <;> split <;> rfl
  rw [dropNote, State.modPart, part_setPart_self, setPart_setPart, dropped]

/-- Settles O25: the first part is `assignAll_spec` for voices that are all FREE, the second the drop. -/
theorem noteOnStartsOrDrops : Obligations.NoteOnStartsOrDrops := by
  constructor
  · intro s p e plays allocates some free room
    have assigned := (playNote_of_allocates allocates).trans (if_neg some)
    have sum (l : List VoiceIx) (hl : ∀ v ∈ l, v ∈ s.chosen p) : (l.map s.stampsOf).sum = l.length :=
      sum_stampsOf_free fun v hv => free v (hl v hv)
    obtain ⟨touched, records⟩ := assignAll_spec (s := s.setPart p (s.entered p e)) (p := p) (s.played p e)
      (s.chosen p).length 0 (chosen_nodup s p) (fun _ => part_of_mem_chosen)
      (fun _ h => choosable_of_mem_chosen (s := s) h)
      (fun v hv tuning => absurd ((free v hv).symm.trans tuning) nofun) (by exact (sum _ fun _ h => h).symm ▸ room)
    have ends := touched.entryLeaves
    refine ⟨_, exec_of_playsNote plays, ?_⟩
    rw [onPart, assigned]
    refine ⟨fun i h => ?_, ends.voice, ?_, ends.part, ends.others, ends.eq, ends.page⟩
    · rw [publishPart_voice, records i h]
      refine (assigned_of_fresh (.inl (free _ (List.getElem_mem h))) _ _ _ _).trans ?_
      have before : (s.setPart p (s.entered p e)).stampBefore (s.chosen p) i + 1#32 =
          s.sequence + 1#32 + BitVec.ofNat 32 i := by
        have taken := sum ((s.chosen p).take i) fun _ => List.mem_of_mem_take
        rw [List.length_take_of_le h.le] at taken
        refine (congrArg (fun n => s.sequence + BitVec.ofNat 32 n + 1#32) taken).trans ?_
        rw [BitVec.add_assoc, BitVec.add_comm (BitVec.ofNat 32 i), BitVec.add_assoc]
      rw [before, Nat.zero_add]
    · rw [ends.sequence]
      exact congrArg (fun n => s.sequence + BitVec.ofNat 32 n) (sum _ fun _ h => h)
  · intro s p e plays allocates none
    have dropped := (playNote_of_allocates allocates).trans (if_pos none)
    rw [dropNote_entered] at dropped
    refine ⟨_, exec_of_playsNote plays, ?_⟩
    rw [onPart, dropped]
    refine ⟨?_, fun q hq => ?_, ?_, ?_⟩
    · have record := publishPart_part
        (setCause causeVoice (s.setPart p { s.entered p e with dropped := satInc (s.part p).dropped })) p (s.part p)
      rwa [part_setCause, part_setPart_self] at record
    · rw [publishPart_part_ne _ hq, part_setCause, part_setPart_ne _ hq]
    · exact publishPart_eq _ p (s.part p)
    · exact sameOutside_of_page (B := partArea p) (fun P hP hp => publishPart_page _ p _ hP hp)
        fun w k => inPart_of_partArea

end Sys2Proof.Machine
end

section
/-! PROOFS. What a NOTE_ON and a NOTE_OFF leave of the part records, whatever room the counter of stamps has: the
latch, the held-note list and its priority note (R21, R22, R38 to R40). -/

namespace Sys2Proof.Machine

variable {s t : State} {v : VoiceIx} {p : PartIx} {e : StreamEntry}

/-! ### No operation on voices changes a part -/

@[simp] theorem publishVoice_parts (s : State) (v : VoiceIx) (old : Voice) : (s.publishVoice v old).parts = s.parts :=
  publishVoice_keeps State.parts s v old fun _ _ => rfl

@[simp] theorem takeAge_parts (v : VoiceIx) (s : State) : (takeAge v s).parts = s.parts :=
  takeAge_keeps State.parts v s fun _ _ _ _ => rfl

@[simp] theorem dropGate_parts (v : VoiceIx) (s : State) : (dropGate v s).parts = s.parts :=
  dropGate_keeps State.parts v s fun _ _ _ _ => rfl

@[simp] theorem beginNote_parts (st : VoiceState) (p : PartIx) (n : NoteInfo) (v : VoiceIx) (s : State) :
    (beginNote st p n v s).parts = s.parts := rfl

@[simp] theorem retrigger_parts (v : VoiceIx) (s : State) : (retrigger v s).parts = s.parts := rfl

theorem assignFresh_parts (p : PartIx) (n : NoteInfo) (i k : Nat) (v : VoiceIx) (s : State) :
    (assignFresh p n i k v s).parts = s.parts := by simp [assignFresh]

theorem stealVoice_parts (p : PartIx) (n : NoteInfo) (i k : Nat) (v : VoiceIx) (s : State) :
    (stealVoice p n i k v s).parts = s.parts := by
  unfold stealVoice
  dsimp only
  split
  · rw [(touches_endDamp v _).parts]
    simp
  · simp

/-- A footprint of the tune engine's work, which spares the parts. -/
theorem tuneWork_sparing_parts :
    TuneWork { port := true, header := true, sweeper := true, voices := true, tune := true } fun _ => True where
  tune := rfl
  voices := rfl
  area _ _ _ := trivial
  status _ _ := trivial
  faults _ _ _ := trivial
  recs _ _ _ := trivial
  ends := ⟨rfl, rfl, rfl, fun _ _ _ => trivial, trivial⟩

theorem yieldTarget_parts (v : VoiceIx) (s : State) : (yieldTarget v s).parts = s.parts :=
  (yieldTarget_frame tuneWork_sparing_parts v s).parts rfl

theorem assignVoice_parts (p : PartIx) (n : NoteInfo) (i k : Nat) (v : VoiceIx) (s : State) :
    (assignVoice p n i k v s).parts = s.parts := by
  unfold assignVoice
  cases (s.voice v).state with
  | free => exact assignFresh_parts p n i k v s
  | tuning => exact (yieldTarget_parts v _).trans (assignFresh_parts p n i k v s)
  | releasing => exact stealVoice_parts p n i k v s
  | held => exact stealVoice_parts p n i k v s
  | sounding => exact stealVoice_parts p n i k v s
  | stealing => rfl
  | out => rfl

theorem assignAll_parts (p : PartIx) (n : NoteInfo) (k i : Nat) (vs : List VoiceIx) (s : State) :
    (assignAll p n k i vs s).parts = s.parts := by
  rw [assignAll_eq_foldl]
  exact foldl_keeps State.parts _ (fun t (b : VoiceIx × Nat) => assignVoice_parts p n b.2 k b.1 t) _ s

theorem reuseVoice_parts (p : PartIx) (n : NoteInfo) (v : VoiceIx) (s : State) :
    (reuseVoice p n v s).parts = s.parts := by
  unfold reuseVoice
  cases (s.voice v).state <;> simp

theorem releaseVoice_parts (p : PartIx) (v : VoiceIx) (s : State) : (releaseVoice p v s).parts = s.parts := by
  unfold releaseVoice
  dsimp only
  split
  · rw [endWindow, (touches_changeVoice _ v _).parts]
    simp
  · simp

theorem releaseKey_parts (p : PartIx) (v : VoiceIx) (s : State) : (releaseKey p v s).parts = s.parts := by
  unfold releaseKey
  split
  · exact (touches_changeVoice s v _).parts
  · exact releaseVoice_parts p v s

theorem followList_parts (p : PartIx) (before : List Key) (entry : Option NoteInfo) (s : State) :
    (followList p before entry s).parts = s.parts := by
  unfold followList
  dsimp only
  split
  · rfl
  · split
    · rfl
    · exact foldl_keeps State.parts _ (fun t v => (followPriority_touches p _ _ _ v t).parts) _ s

/-! ### The part after a NOTE_ON -/

/-- A NOTE_ON leaves its part latched and with its note entered, but for the count of dropped notes (R21, R28, R38). -/
theorem playNote_parts (s : State) (p : PartIx) (e : StreamEntry) :
    ∃ d, (playNote p e.info s).parts = (s.setPart p { s.entered p e with dropped := d }).parts := by
  have same {u : State} (h : u.parts = (s.setPart p (s.entered p e)).parts) :
      ∃ d, u.parts = (s.setPart p { s.entered p e with dropped := d }).parts := ⟨(s.entered p e).dropped, h⟩
  have looks (h : s.allocates p e) :
      ∃ d, (playNote p e.info s).parts = (s.setPart p { s.entered p e with dropped := d }).parts := by
    rw [playNote_of_allocates h]
    split
    · exact ⟨_, by rw [dropNote_entered]; rfl⟩
    · exact same (assignAll_parts ..)
  by_cases poly : (s.latched p).mode = .poly
  · by_cases none : s.holders p e.info.note = []
    · exact looks (by unfold State.allocates; rwa [if_pos poly])
    · rw [playNote_of_holders poly none]
      exact same (foldl_keeps State.parts _ (fun t v => reuseVoice_parts p e.info v t) _ _)
  · cases idle : s.idlePart p with
    | true => exact looks (by unfold State.allocates; rwa [if_neg poly])
    | false =>
      rw [playNote_of_playing poly idle]
      exact same (followList_parts ..)

/-- The part record after a NOTE_ON. -/
theorem playNote_part (s : State) (p : PartIx) (e : StreamEntry) :
    ∃ d c, (onPart p (playNote p e.info) s).part p = { s.entered p e with dropped := d, changeCount := c } := by
  obtain ⟨d, parts⟩ := playNote_parts s p e
  have part : (playNote p e.info s).part p = { s.entered p e with dropped := d } := by
    rw [State.part, parts]
    exact part_setPart_self s p _
  exact ⟨d, _, by rw [onPart, publishPart_part, part]⟩

theorem playNote_others (s : State) (p : PartIx) (e : StreamEntry) {q : PartIx} (h : q ≠ p) :
    (onPart p (playNote p e.info) s).part q = s.part q := by
  obtain ⟨d, parts⟩ := playNote_parts s p e
  rw [onPart, publishPart_part_ne _ h, State.part, parts]
  exact part_setPart_ne s h _

/-- The latch and the entry of the note change mode, unison count and held-note list alone. -/
theorem entered_eq (s : State) (p : PartIx) (e : StreamEntry) :
    s.entered p e =
      { s.part p with
        mode := (s.latched p).mode, unison := (s.latched p).unison, held := (s.entered p e).held } := by
  unfold State.entered State.latched
  split <;> split <;> rfl

/-- A footprint of note assignment, which spares what the other engines hold. -/
theorem noteWork_sparing_engines :
    NoteWork
      { port := true, header := true, sweeper := true, voices := true, parts := true, sequence := true, refresh := true
        tune := true }
      fun _ => True where
  parts := rfl
  refresh := rfl
  voice := ⟨rfl, rfl, fun _ _ _ => trivial⟩
  tune :=
    ⟨rfl, rfl, fun _ _ _ => trivial, fun _ _ => trivial, fun _ _ _ => trivial, fun _ _ _ => trivial,
      ⟨rfl, rfl, rfl, fun _ _ _ => trivial, trivial⟩⟩

/-- Settles O23: the part records from `playNote_part`, the rest from the frame of a NOTE_ON. -/
theorem noteOnLatchesIdlePart : Obligations.NoteOnLatchesIdlePart := by
  intro s p e plays
  obtain ⟨d, c, part⟩ := playNote_part s p e
  have frame := onPart_frame (s := s) (p := p) rfl (fun _ _ => trivial)
    (playNote_frame noteWork_sparing_engines p e.info s)
  refine ⟨_, exec_of_playsNote plays, ?_⟩
  rw [part]
  refine ⟨?_, ?_, rfl, ?_, fun q => playNote_others s p e, frame.time, frame.router rfl, frame.panel rfl,
    frame.patch rfl⟩ <;> rw [entered_eq]

/-! ### The held-note list (R39) -/

/-- On a list without duplicates a NOTE_ON moves its note to the end, appends it, or forgets the oldest for it. -/
theorem heldInsert_spec {l : List Key} (nodup : l.Nodup) (n : Key) :
    (n ∈ l → heldInsert n l = l.erase n ++ [n]) ∧ (n ∉ l → l.length < 16 → heldInsert n l = l ++ [n]) ∧
      (n ∉ l → l.length = 16 → heldInsert n l = l.tail ++ [n]) := by
  refine ⟨fun h => ?_, fun h lt => ?_, fun h eq => ?_⟩
  · rw [heldInsert, if_pos h, nodup.erase_eq_filter]
  · rw [heldInsert, if_neg h, if_pos lt]
  · rw [heldInsert, if_neg h, if_neg (by omega)]

theorem heldInsert_fits {l : List Key} (nodup : l.Nodup) (length : l.length ≤ 16) (n : Key) :
    (heldInsert n l).Nodup ∧ (heldInsert n l).length ≤ 16 := by
  obtain ⟨moved, appended, forgotten⟩ := heldInsert_spec nodup n
  have snoc {k : List Key} (hk : k.Nodup) (hn : n ∉ k) (hl : k.length < 16) :
      (k ++ [n]).Nodup ∧ (k ++ [n]).length ≤ 16 :=
    ⟨List.nodup_append.2 ⟨hk, List.nodup_singleton n, fun a ha b hb => by
      obtain rfl : b = n := by simpa using hb
      exact fun e => hn (e ▸ ha)⟩, by simpa using hl⟩
  by_cases mem : n ∈ l
  · rw [moved mem]
    refine snoc (nodup.erase n) nodup.not_mem_erase ?_
    have := List.length_pos_of_mem mem
    rw [List.length_erase_of_mem mem]
    omega
  · rcases Nat.lt_or_eq_of_le length with lt | eq
    · rw [appended mem lt]
      exact snoc nodup mem lt
    · rw [forgotten mem eq]
      exact snoc nodup.tail (fun h => mem (List.mem_of_mem_tail h)) (by rw [List.length_tail]; omega)

theorem heldRemove_eq_erase {l : List Key} (nodup : l.Nodup) (n : Key) : heldRemove n l = l.erase n :=
  (nodup.erase_eq_filter n).symm

/-! ### The part after a NOTE_OFF -/

theorem polyNoteOff_parts (p : PartIx) (n : Key) (s : State) : (polyNoteOff p n s).parts = s.parts := by
  refine foldl_keeps State.parts _ (fun t v => ?_) _ s
  dsimp only
  split
  · exact releaseKey_parts p v t
  · split
    · exact (setPendingOff_touches v t).parts
    · rfl

/-- On a mono part a NOTE_OFF takes its note out of the held-note list and leaves the parts otherwise (R39). -/
theorem monoNoteOff_parts (p : PartIx) (n : Key) (s : State) :
    (monoNoteOff p n s).parts = (s.setPart p { s.part p with held := heldRemove n (s.part p).held }).parts := by
  unfold monoNoteOff
  dsimp only
  split
  · split
    · refine (foldl_keeps State.parts _ (fun t v => ?_) _ _).trans rfl
      split
      · exact releaseKey_parts p v t
      · exact (setPendingOff_touches v t).parts
      all_goals rfl
    · exact followList_parts ..
  · rename_i absent
    have same : heldRemove n (s.part p).held = (s.part p).held :=
      List.filter_eq_self.2 fun m hm => by simpa using fun e : m = n => absent (e ▸ hm)
    rw [same, setPart_part]

/-- The part record after a NOTE_OFF: in POLY the held-note list is as it was. -/
theorem stopNote_part (s : State) (p : PartIx) (n : Key) :
    ∃ c, (onPart p (stopNote p n) s).part p =
      { s.part p with
        held := if (s.part p).mode = .poly then (s.part p).held else heldRemove n (s.part p).held
        changeCount := c } := by
  have part : (stopNote p n s).part p =
      { s.part p with
        held := if (s.part p).mode = .poly then (s.part p).held else heldRemove n (s.part p).held } := by
    unfold stopNote
    split
    · rw [State.part, polyNoteOff_parts]
      rfl
    · rw [State.part, monoNoteOff_parts]
      exact part_setPart_self s p _
  exact ⟨_, by rw [onPart, publishPart_part, part]⟩

/-- Settles O30: the list as `playNote_part` and `stopNote_part` give it, with the facts on the list itself. -/
theorem heldListKeepsArrivalOrder : Obligations.HeldListKeepsArrivalOrder := by
  refine ⟨fun s p e plays fit => ?_, fun s p n c releases fit => ?_, fun l n => ?_, fun l n => ?_, fun l n => ?_⟩
  · obtain ⟨nodup, length, polyEmpty⟩ := fit p
    obtain ⟨d, c, part⟩ := playNote_part s p e
    refine ⟨_, exec_of_playsNote plays, ?_⟩
    have held : (s.latched p).mode ≠ .poly → (s.latched p).held = (s.part p).held := by
      unfold State.latched
      split
      · exact fun h => if_neg h
      · exact fun _ => rfl
    have empty : (s.latched p).mode = .poly → (s.latched p).held = [] := by
      unfold State.latched
      split
      · exact fun h => if_pos h
      · exact polyEmpty
    rw [part]
    by_cases poly : (s.latched p).mode = .poly
    · rw [entered_of_poly poly]
      simp [poly, empty poly]
    · rw [entered_of_mono poly]
      dsimp only
      rw [held poly]
      exact ⟨fun h => absurd h poly, fun _ => heldInsert_spec nodup _, heldInsert_fits nodup length _⟩
  · obtain ⟨nodup, -, polyEmpty⟩ := fit p
    obtain ⟨c, part⟩ := stopNote_part s p n
    refine ⟨_, exec_of_releasesNote releases, ?_⟩
    rw [part]
    refine ⟨?_, rfl⟩
    dsimp only
    split
    · rename_i poly
      rw [polyEmpty poly]
      rfl
    · exact heldRemove_eq_erase nodup n
  · exact List.getLast?_concat ..
  · exact List.min?_eq_some_iff
  · exact List.max?_eq_some_iff

end Sys2Proof.Machine
end

section
/-! PROOFS. The NOTE_ON that chooses no voice: the reuse of the voices that hold its note, and the mono set that
follows the priority note (R22, R23, R38 to R40, R42). -/

namespace Sys2Proof.Machine

variable {s t : State} {v : VoiceIx} {p : PartIx} {e : StreamEntry}

/-! ### Operations on a list of voices -/

/-- `foldl_touches` for operations that are told apart by their voices alone. -/
theorem foldl_voices (count : VoiceIx → Nat) (result : VoiceIx → Nat → Voice) (f : VoiceIx → State → State)
    {vs : List VoiceIx} (nodup : vs.Nodup)
    (step : ∀ v ∈ vs, ∀ A m t, Touches A m s t → t.voice v = s.voice v → m + count v ≤ (vs.map count).sum →
      Touches (· = v) (count v) t (f v t) ∧ (f v t).voice v = result v m) :
    Touches (· ∈ vs) (vs.map count).sum s (vs.foldl (fun t v => f v t) s) ∧
      ∀ (i : Nat) (h : i < vs.length),
        (vs.foldl (fun t v => f v t) s).voice vs[i] = result vs[i] ((vs.take i).map count).sum := by
  have fold := foldl_touches (s := s) (fun v => v) count result (fun t v => f v t) vs (by rwa [List.map_id']) step
  rwa [List.map_id'] at fold

theorem sum_map_const {α : Type} (k : Nat) (l : List α) : (l.map fun _ => k).sum = k * l.length := by
  rw [List.map_const', List.sum_replicate, smul_eq_mul, Nat.mul_comm]

theorem voicesOf_nodup (s : State) (p : PartIx) : (s.voicesOf p).Nodup := (List.nodup_finRange 16).filter _

/-! ### Reuse (R23) -/

theorem Touches.reused {A : VoiceIx → Prop} {m : Nat} (h : Touches A m s t) (hv : t.voice v = s.voice v)
    (n : NoteInfo) (a : Long) : t.reused p n v a = s.reused p n v a := by
  unfold State.reused
  rw [hv, h.startedRecord, h.retriggered, h.running]

/-- A stamp that the counter has room for is above all stamps of before, so that taking it changes the record (R4). -/
theorem stamp_ne_old (distinct : s.StampsDistinct) {m k : Nat} (room : s.roomFor k) (hm : m + 1 ≤ k) (v : VoiceIx) :
    s.sequence + BitVec.ofNat 32 m + 1#32 ≠ (s.voice v).ageStamp := by
  have old : (s.voice v).ageStamp.toNat ≤ s.sequence.toNat := (distinct v).1
  unfold State.roomFor at room
  intro e
  rw [← e, BitVec.toNat_add, BitVec.toNat_add, BitVec.toNat_ofNat, BitVec.toNat_ofNat] at old
  omega

/-- The voices that hold a note take it again, one after another (R23). -/
theorem foldl_reuseVoice {n : NoteInfo} {vs : List VoiceIx} (nodup : vs.Nodup)
    (holds : ∀ v ∈ vs, holdsNote (s.voice v) n.note = true) (distinct : s.StampsDistinct) (room : s.roomFor vs.length) :
    Touches (· ∈ vs) vs.length s (vs.foldl (fun t v => reuseVoice p n v t) s) ∧
      ∀ (i : Nat) (h : i < vs.length), (vs.foldl (fun t v => reuseVoice p n v t) s).voice vs[i] =
        s.reused p n vs[i] (s.sequence + 1#32 + BitVec.ofNat 32 i) := by
  have counts (l : List VoiceIx) : (l.map fun _ => 1).sum = l.length := by rw [sum_map_const, Nat.one_mul]
  have fold := foldl_voices (s := s) (fun _ => 1)
    (fun v m => s.reused p n v (s.sequence + BitVec.ofNat 32 m + 1#32)) (fun v t => reuseVoice p n v t) nodup ?_
  · obtain ⟨touched, records⟩ := fold
    rw [counts] at touched
    refine ⟨touched, fun i h => ?_⟩
    rw [records i h, counts, List.length_take_of_le h.le, BitVec.add_assoc, BitVec.add_comm (BitVec.ofNat 32 i),
      BitVec.add_assoc]
  · intro v hv A m t touched same hm
    rw [counts] at hm
    have one : t.roomFor 1 := touched.roomFor (room.mono hm)
    refine ⟨reuseVoice_touches p n one, ?_⟩
    rw [reuseVoice_voice one (by rw [same]; exact holds v hv)
      (by rw [same, touched.sequence]; exact stamp_ne_old distinct room hm v), touched.reused same, touched.sequence]

/-- Settles O27: the holders are reused, each as `reuseVoice_voice` says. -/
theorem noteOnReusesHolders : Obligations.NoteOnReusesHolders := by
  intro s p e plays poly some distinct room
  have reuses := playNote_of_holders poly some
  obtain ⟨touched, records⟩ := foldl_reuseVoice (s := s.setPart p (s.entered p e)) (p := p) (n := e.info)
    ((voicesOf_nodup s p).filter _) (fun v hv => (List.mem_filter.1 hv).2) distinct room
  have ends := touched.entryLeaves
  refine ⟨_, exec_of_playsNote plays, ?_⟩
  rw [onPart, reuses]
  refine ⟨fun i h => ?_, ends.voice, ends.sequence, ?_, ends.others, ends.eq, ends.page⟩
  · exact (publishPart_voice _ p _ _).trans (records i h)
  · rw [← entered_of_poly poly e]
    exact ends.part

/-! ### The mono set (R38, R40) -/

theorem mem_monoSet : v ∈ monoSet s p ↔ (s.voice v).part = some p ∧ (s.voice v).state.playing = true := by
  simp [monoSet, State.voicesOf, and_comm]

theorem Touches.followPriority_voice {A : VoiceIx → Prop} {m : Nat} (h : Touches A m s t) (hv : t.voice v = s.voice v)
    {n : Key} {entry : Option NoteInfo} (connected : Bool) (note : ∀ e, entry = some e → e.note = n)
    (playing : (s.voice v).state.playing = true) :
    (followPriority p n entry connected v t).voice v =
      (s.voice v).publishedFrom (s.followed p n entry connected v (s.voice v)) := by
  rw [← hv] at playing
  rw [Machine.followPriority_voice connected note playing, hv, h.followed]

/-- Where the priority note stands, the mono set does not move (R40). -/
theorem followList_of_same {before : List Key} (entry : Option NoteInfo)
    (h : priorityNote (s.part p).mode before = priorityNote (s.part p).mode (s.part p).held) :
    followList p before entry s = s := by
  unfold followList
  dsimp only
  split
  · rfl
  · rename_i n now
    rw [h, if_pos now]

/-- Where the priority note changes to `n`, every voice of the mono set follows it and takes no stamp (R40). -/
theorem followList_of_moves {before : List Key} (entry : Option NoteInfo) {n : Key}
    (now : priorityNote (s.part p).mode (s.part p).held = some n) (old : priorityNote (s.part p).mode before ≠ some n) :
    Touches (· ∈ monoSet s p) 0 s (followList p before entry s) ∧
      ∀ v ∈ monoSet s p, (followList p before entry s).voice v = (s.voice v).publishedFrom
        (s.followed p n (entry.filter fun e => e.note == n) (!before.isEmpty) v (s.voice v)) := by
  have fold : followList p before entry s = (monoSet s p).foldl
      (fun t v => followPriority p n (entry.filter fun e => e.note == n) (!before.isEmpty) v t) s := by
    unfold followList
    simp only [now, old, if_false]
  have none (l : List VoiceIx) : (l.map fun _ => 0).sum = 0 := by rw [sum_map_const, Nat.zero_mul]
  obtain ⟨touched, records⟩ := foldl_voices (s := s) (fun _ => 0)
    (fun v _ => (s.voice v).publishedFrom
      (s.followed p n (entry.filter fun e => e.note == n) (!before.isEmpty) v (s.voice v)))
    (fun v t => followPriority p n (entry.filter fun e => e.note == n) (!before.isEmpty) v t)
    ((voicesOf_nodup s p).filter _ : (monoSet s p).Nodup)
    fun v hv A m t touched same _ => ⟨followPriority_touches p n _ _ v t,
      touched.followPriority_voice same _ (fun e he => by simpa using (Option.filter_eq_some_iff.1 he).2)
        (mem_monoSet.1 hv).2⟩
  rw [fold]
  rw [none] at touched
  refine ⟨touched, fun v hv => ?_⟩
  obtain ⟨i, h, rfl⟩ := List.getElem_of_mem hv
  exact records i h

/-- The mono set follows the list, whatever becomes of the priority note, and takes no stamp (R40). -/
theorem followList_touches (p : PartIx) (before : List Key) (entry : Option NoteInfo) (s : State) :
    Touches (· ∈ monoSet s p) 0 s (followList p before entry s) := by
  cases now : priorityNote (s.part p).mode (s.part p).held with
  | none =>
    have stays : followList p before entry s = s := by unfold followList; simp only [now]
    rw [stays]
    exact .refl s
  | some n =>
    by_cases old : priorityNote (s.part p).mode before = some n
    · rw [followList_of_same entry (old.trans now.symm)]
      exact .refl s
    · exact (followList_of_moves entry now old).1

/-- From `s` to `u` the held-note list of part `p` has become `after`, and the mono set has followed it with the
entry `entry` (R40). -/
structure FollowsTo (p : PartIx) (after : List Key) (entry : Option NoteInfo) (s u : State) : Prop where
  leaves : EntryLeaves p { s.part p with held := after } (· ∈ monoSet s p) 0 s u
  stays : priorityNote (s.part p).mode (s.part p).held = priorityNote (s.part p).mode after → u.voices = s.voices
  moves : ∀ n, priorityNote (s.part p).mode after = some n → priorityNote (s.part p).mode (s.part p).held ≠ some n →
    ∀ v ∈ monoSet s p, u.voice v =
      { s.followed p n (entry.filter fun e => e.note == n) (!(s.part p).held.isEmpty) v (s.voice v) with
        changeCount := (u.voice v).changeCount }

/-- An entry that makes the mono set of part `p` follow its list (R40, R44). -/
theorem followList_followsTo (s : State) (p : PartIx) (after : List Key) (entry : Option NoteInfo) :
    FollowsTo p after entry s
      ((followList p (s.part p).held entry (s.setPart p { s.part p with held := after })).publishPart p
        (s.part p)) where
  leaves := (followList_touches p (s.part p).held entry (s.setPart p { s.part p with held := after })).entryLeaves
  stays same := by
    rw [followList_of_same entry (by rw [part_setPart_self]; exact same)]
    exact voices_ext fun v => publishPart_voice _ p _ v
  moves n now old v hv := by
    have record := (followList_of_moves (s := s.setPart p { s.part p with held := after }) (p := p) entry
      (by rw [part_setPart_self]; exact now) (by rw [part_setPart_self]; exact old)).2 v hv
    rw [publishPart_voice, record, publishedFrom_eq]
    rfl

/-- Settles O29: the mono set follows the list that the note has entered. -/
theorem monoSetFollowsNoteOn : Obligations.MonoSetFollowsNoteOn := by
  intro s p e plays playing mono before after
  have latched := latched_of_playing playing
  rw [← latched] at mono
  have entered : s.entered p e = { s.part p with held := after } := by rw [entered_of_mono mono, latched]
  have follows := playNote_of_playing (e := e) mono playing
  rw [entered] at follows
  obtain ⟨leaves, stays, moves⟩ := followList_followsTo s p after (some e.info)
  refine ⟨_, exec_of_playsNote plays, ?_⟩
  rw [onPart, follows]
  refine ⟨leaves.part, leaves.others, stays, fun n now old v => ?_, ?_, fun k hk => ?_⟩
  · have mine : (some e.info).filter (fun e => e.note == n) = if e.info.note = n then some e.info else none := by
      rw [Option.filter_some]
      simp only [beq_iff_eq]
    rw [← mine]
    split <;> rename_i part
    · by_cases set : (s.voice v).state.playing = true
      · exact moves n now old v (mem_monoSet.2 ⟨part, set⟩)
      · rw [followed_of_not_playing (by simpa using set)]
        have still := leaves.voice v fun hv => set (mem_monoSet.1 hv).2
        rw [still]
    · exact leaves.voice v fun hv => part (mem_monoSet.1 hv).1
  · have eq := leaves.eq
    rwa [leaves.sequence, BitVec.add_zero] at eq
  · exact leaves.page k fun hp => hk (hp.imp_right fun ⟨v, hv, inside⟩ => ⟨v, (mem_monoSet.1 hv).1, inside⟩)

end Sys2Proof.Machine
end

section
/-! PROOFS. NOTE_OFF: the voices of a part whose key is released, in POLY and in the mono modes (R20, R29, R31, R33,
R41). -/

namespace Sys2Proof.Machine

variable {s t : State} {v : VoiceIx} {p : PartIx}

/-! ### Releases on a list of voices -/

/-- What a NOTE_OFF does on voice `v` of part `p`: the key is released where `R` holds of the record, and otherwise
the pending note is marked where `O` holds (R33, R41). -/
def releaseOrMark (R O : Voice → Bool) (p : PartIx) (v : VoiceIx) (s : State) : State :=
  if R (s.voice v) then releaseKey p v s else if O (s.voice v) then setPendingOff v s else s

theorem polyNoteOff_eq (p : PartIx) (n : Key) (s : State) :
    polyNoteOff p n s =
      (s.voicesOf p).foldl
        (fun t v => releaseOrMark (fun x => x.state == .sounding && x.note.map (·.note) == some n)
          (fun x => x.state == .stealing && x.pending.map (·.info.note) == some n) p v t) s := rfl

/-- On a mono part whose list empties, the keys of the SOUNDING voices are released and the STEALING ones marked
(R41). -/
theorem monoNoteOff_of_last {n : Key} (mem : n ∈ (s.part p).held) (last : heldRemove n (s.part p).held = []) :
    monoNoteOff p n s =
      (monoSet s p).foldl (fun t v => releaseOrMark (fun x => x.state == .sounding) (fun x => x.state == .stealing) p v t)
        (s.setPart p { s.part p with held := heldRemove n (s.part p).held }) := by
  unfold monoNoteOff
  dsimp only
  rw [if_pos mem, State.modPart, part_setPart_self, last]
  refine congrArg (fun f => List.foldl f _ _) (funext fun t => funext fun v => ?_)
  unfold releaseOrMark
  cases h : (t.voice v).state <;> simp [h]

theorem monoNoteOff_of_more {n : Key} (mem : n ∈ (s.part p).held) (more : heldRemove n (s.part p).held ≠ []) :
    monoNoteOff p n s =
      followList p (s.part p).held none (s.setPart p { s.part p with held := heldRemove n (s.part p).held }) := by
  unfold monoNoteOff
  dsimp only
  rw [if_pos mem, State.modPart, part_setPart_self, if_neg (by rwa [List.isEmpty_iff])]

theorem Touches.keyReleased {A : VoiceIx → Prop} {m : Nat} (h : Touches A m s t) (hv : t.voice v = s.voice v)
    (r : Long) : t.keyReleased p v r = s.keyReleased p v r := by
  unfold State.keyReleased
  rw [h.part, hv, h.running, h.released]

theorem Touches.markedOff {A : VoiceIx → Prop} {m : Nat} (h : Touches A m s t) (hv : t.voice v = s.voice v) :
    t.markedOff v = s.markedOff v := by
  unfold State.markedOff
  rw [hv, h.running]

theorem Touches.releaseCount {A : VoiceIx → Prop} {m : Nat} (h : Touches A m s t) (hv : t.voice v = s.voice v) :
    t.releaseCount p v = s.releaseCount p v := by
  unfold State.releaseCount
  rw [h.part, hv]

theorem takeWhile_ne_append {v : VoiceIx} {a b : List VoiceIx} (h : v ∉ a) :
    (a ++ v :: b).takeWhile (fun w => w != v) = a := by
  rw [List.takeWhile_append_of_pos fun w hw => by simpa using fun e : w = v => h (e ▸ hw)]
  simp

/-- The stamps that the releases before the `i`-th voice of a list take, where no sustain holds the keys. -/
theorem gatedBefore_filter (s : State) (R : VoiceIx → Bool) {vs : List VoiceIx} (nodup : vs.Nodup) (i : Nat)
    (h : i < vs.length) (hR : R vs[i] = true) :
    s.gatedBefore (vs.filter R) vs[i] =
      ((vs.take i).map fun v => if R v then (s.voice v).gateRequest.toNat else 0).sum := by
  have split : vs = vs.take i ++ vs[i] :: vs.drop (i + 1) := by simp
  have fresh : vs[i] ∉ vs.take i := by
    have parts := nodup
    rw [split] at parts
    exact fun hv => (List.nodup_append.1 parts).2.2 _ hv _ List.mem_cons_self rfl
  have filtered : vs.filter R = (vs.take i).filter R ++ vs[i] :: (vs.drop (i + 1)).filter R := by
    conv_lhs => rw [split]
    rw [List.filter_append, List.filter_cons_of_pos hR]
  have before : (vs.filter R).takeWhile (fun w => w != vs[i]) = (vs.take i).filter R := by
    rw [filtered]
    exact takeWhile_ne_append fun hv => fresh (List.mem_of_mem_filter hv)
  unfold State.gatedBefore
  rw [before, List.filter_filter]
  generalize vs.take i = l
  induction l with
  | nil => rfl
  | cons w l ih =>
    rw [List.map_cons, List.sum_cons, ← ih, List.filter_cons]
    cases R w <;> cases (s.voice w).gateRequest <;> simp [Nat.add_comm]

theorem sum_map_ite_le {c : VoiceIx → Nat} (hc : ∀ v, c v ≤ 1) (R : VoiceIx → Bool) (vs : List VoiceIx) :
    (vs.map fun v => if R v then c v else 0).sum ≤ (vs.filter R).length := by
  induction vs with
  | nil => exact le_rfl
  | cons v vs ih =>
    rw [List.map_cons, List.sum_cons, List.filter_cons]
    have := hc v
    split
    · rw [List.length_cons]
      omega
    · omega

/-- A NOTE_OFF on a list of voices: which records it leaves, with release stamps in the order of the list (R31). -/
theorem foldl_releaseOrMark (R O : Voice → Bool) {vs : List VoiceIx} (nodup : vs.Nodup)
    (sounding : ∀ v, R (s.voice v) = true → (s.voice v).state = .sounding)
    (room : s.roomFor (vs.filter fun v => R (s.voice v)).length) :
    ∃ n, Touches (· ∈ vs) n s (vs.foldl (fun t v => releaseOrMark R O p v t) s) ∧
      ∀ v ∈ vs, (vs.foldl (fun t v => releaseOrMark R O p v t) s).voice v =
        if R (s.voice v) then
          s.keyReleased p v (s.sequence + 1#32 + BitVec.ofNat 32 (s.gatedBefore (vs.filter fun v => R (s.voice v)) v))
        else if O (s.voice v) then s.markedOff v else s.voice v := by
  let count (v : VoiceIx) : Nat := if R (s.voice v) then s.releaseCount p v else 0
  let result (v : VoiceIx) (m : Nat) : Voice :=
    if R (s.voice v) then s.keyReleased p v (s.sequence + BitVec.ofNat 32 m + 1#32)
    else if O (s.voice v) then s.markedOff v else s.voice v
  have enough : (vs.map count).sum ≤ (vs.filter fun v => R (s.voice v)).length :=
    sum_map_ite_le (fun v => Bool.toNat_le _) _ vs
  have fold := foldl_voices (s := s) count result (fun v t => releaseOrMark R O p v t) nodup ?_
  · obtain ⟨touched, records⟩ := fold
    refine ⟨_, touched, fun v hv => ?_⟩
    obtain ⟨i, h, rfl⟩ := List.getElem_of_mem hv
    rw [records i h]
    dsimp only [result, count]
    split
    · rename_i released
      rw [gatedBefore_filter s (fun v => R (s.voice v)) nodup i h released]
      unfold State.keyReleased State.releaseCount
      cases (s.part p).sustain with
      | true => rfl
      | false =>
        simp only [Bool.not_false, Bool.true_and]
        rw [BitVec.add_assoc, BitVec.add_comm (BitVec.ofNat 32 _), ← BitVec.add_assoc]
    · rfl
  · intro v _ A m t touched same hm
    have left := touched.roomFor (room.mono (hm.trans enough))
    dsimp only [result, count] at left ⊢
    unfold releaseOrMark
    rw [same]
    split
    · rename_i released
      rw [if_pos released, ← touched.releaseCount same] at left
      rw [← touched.releaseCount same, releaseKey_voice left (by rw [same]; exact sounding v released),
        touched.keyReleased same, touched.sequence]
      exact ⟨releaseKey_touches p left, rfl⟩
    · split
      · rw [setPendingOff_voice, touched.markedOff same]
        exact ⟨setPendingOff_touches v t, rfl⟩
      · exact ⟨.refl t, same⟩

/-! ### NOTE_OFF leaves the turn in progress alone -/

theorem releaseVoice_refresh (p : PartIx) (v : VoiceIx) (s : State) : (releaseVoice p v s).refresh = s.refresh := by
  have first (f : Voice → Voice) (old : Voice) :
      (((dropGate v s).modVoice v f).publishVoice v old).refresh = s.refresh := by
    rw [publishVoice_keeps State.refresh _ v old fun _ _ => rfl]
    exact dropGate_keeps State.refresh v s fun _ _ _ _ => rfl
  unfold releaseVoice
  dsimp only
  split
  · exact (changeVoice_keeps State.refresh _ v _ fun _ _ => rfl).trans (first _ _)
  · exact first _ _

theorem releaseOrMark_refresh (R O : Voice → Bool) (p : PartIx) (v : VoiceIx) (s : State) :
    (releaseOrMark R O p v s).refresh = s.refresh := by
  unfold releaseOrMark releaseKey setPendingOff
  split
  · split
    · exact changeVoice_keeps State.refresh s v _ fun _ _ => rfl
    · exact releaseVoice_refresh p v s
  · split
    · exact changeVoice_keeps State.refresh s v _ fun _ _ => rfl
    · rfl

/-! ### The obligations -/

/-- The key released by a NOTE_OFF, with the release stamp that its place among the voices `vs` gives (R4, R31). -/
theorem keyReleased_eq (s : State) (p : PartIx) (vs : List VoiceIx) (v : VoiceIx) :
    s.keyReleased p v (s.sequence + 1#32 + BitVec.ofNat 32 (s.gatedBefore vs v)) =
      if (s.part p).sustain then (((s.voice v).into .held).regate s.running).counted
      else s.released p (s.releaseStampOf vs v) (s.voice v) := rfl

theorem markedOff_eq (s : State) (v : VoiceIx) :
    s.markedOff v =
      { ({ s.voice v with pending := (s.voice v).pending.map fun q => { q with off := true } } : Voice).regate
          s.running with changeCount := (s.markedOff v).changeCount } := publishedFrom_eq _ _

/-- Settles O31: on a POLY part the release of every SOUNDING voice with the note. -/
theorem polyNoteOffReleases : Obligations.PolyNoteOffReleases := by
  intro s p n c releases poly vs room
  obtain ⟨k, touched, records⟩ := foldl_releaseOrMark (s := s) (p := p)
    (fun x => x.state == .sounding && x.note.map (·.note) == some n)
    (fun x => x.state == .stealing && x.pending.map (·.info.note) == some n) (voicesOf_nodup s p)
    (fun v h => by simp at h; exact h.1) room
  rw [← polyNoteOff_eq] at touched records
  have ends : onPart p (stopNote p n) s = polyNoteOff p n s := by
    have same : stopNote p n s = polyNoteOff p n s := if_pos poly
    rw [onPart, same, publishPart_same (by rw [touched.part])]
  refine ⟨_, exec_of_releasesNote releases, ?_⟩
  rw [ends]
  refine ⟨fun v hv => ?_, fun v part state pending => ?_, fun v released marked => ?_, ?_, ?_⟩
  · obtain ⟨mem, cond⟩ := List.mem_filter.1 hv
    rw [records v mem, if_pos cond]
    exact keyReleased_eq s p vs v
  · rw [records v (mem_voicesOf.2 part), if_neg (by simp [state]), if_pos (by simp [state, pending])]
    exact markedOff_eq s v
  · by_cases mem : v ∈ s.voicesOf p
    · rw [records v mem, if_neg fun h => released (List.mem_filter.2 ⟨mem, h⟩),
        if_neg fun h => marked ⟨mem_voicesOf.1 mem, by simpa using h⟩]
    · exact touched.voice v mem
  · have eq := touched.eq
    have refresh : (polyNoteOff p n s).refresh = s.refresh := by
      rw [polyNoteOff_eq]
      exact foldl_keeps State.refresh _ (fun t v => releaseOrMark_refresh _ _ p v t) _ s
    rw [refresh] at eq
    exact eq
  · exact sameOutside_of_page touched.frame.page fun w k ⟨v, hv, hw⟩ hk =>
      ⟨v, mem_voicesOf.1 hv, inVoice_of_voiceArea hw hk⟩

@[simp] theorem priorityNote_nil (m : PartMode) : priorityNote m [] = none := by cases m <;> rfl

/-- A NOTE_OFF that empties the list of a mono part: which records it leaves in the mono set (R41). -/
theorem monoNoteOff_spec_of_last {n : Key} (mem : n ∈ (s.part p).held) (last : heldRemove n (s.part p).held = [])
    (room : s.roomFor ((monoSet s p).filter fun v => (s.voice v).state == .sounding).length) :
    ∃ k, Touches (· ∈ monoSet s p) k (s.setPart p { s.part p with held := heldRemove n (s.part p).held })
        (monoNoteOff p n s) ∧
      ∀ v ∈ monoSet s p, (monoNoteOff p n s).voice v =
        if (s.voice v).state == .sounding then
          s.keyReleased p v (s.sequence + 1#32 +
            BitVec.ofNat 32 (s.gatedBefore ((monoSet s p).filter fun v => (s.voice v).state == .sounding) v))
        else if (s.voice v).state == .stealing then s.markedOff v else s.voice v := by
  obtain ⟨k, touched, records⟩ := foldl_releaseOrMark
    (s := s.setPart p { s.part p with held := heldRemove n (s.part p).held }) (p := p)
    (fun x => x.state == .sounding) (fun x => x.state == .stealing) ((voicesOf_nodup s p).filter _ : (monoSet s p).Nodup)
    (fun v h => by simpa using h) room
  rw [monoNoteOff_of_last mem last]
  refine ⟨k, touched, fun v hv => (records v hv).trans ?_⟩
  have sustain : (s.setPart p { s.part p with held := heldRemove n (s.part p).held }).keyReleased p v =
      s.keyReleased p v := by
    unfold State.keyReleased
    rw [part_setPart_self]
    rfl
  rw [sustain]
  rfl

/-- A NOTE_OFF on a mono part of a note that its list does not hold is ignored (R39). -/
theorem onPart_stopNote_of_absent {n : Key} (mono : (s.part p).mode ≠ .poly) (absent : n ∉ (s.part p).held) :
    onPart p (stopNote p n) s = s := by
  have same : stopNote p n s = s := by
    rw [stopNote, if_neg mono, monoNoteOff]
    exact if_neg absent
  rw [onPart, same, publishPart_same rfl]

/-- Settles O32: an absent note is ignored; otherwise the list empties and keys are released, or the set follows. -/
theorem monoNoteOffReleasesOrFollows : Obligations.MonoNoteOffReleasesOrFollows := by
  intro s p n c releases mono before after set vs room
  have run := exec_of_releasesNote releases
  refine ⟨fun absent => by rwa [onPart_stopNote_of_absent mono absent] at run, fun mem => ⟨_, run, ?_⟩⟩
  have mono_off : stopNote p n s = monoNoteOff p n s := if_neg mono
  rw [onPart, mono_off]
  by_cases last : after = []
  · obtain ⟨k, touched, records⟩ := monoNoteOff_spec_of_last mem last room
    have leaves := touched.entryLeaves
    have none (m : Key) : priorityNote (s.part p).mode after ≠ some m := by simp [last]
    refine ⟨leaves.part, leaves.others, leaves.voice, fun m now => absurd now (none m), fun _ => ⟨fun v hv => ?_,
      fun v hv held => ?_, fun v hv stealing => ?_⟩, leaves.eq, leaves.page⟩
    · obtain ⟨inSet, sounding⟩ := List.mem_filter.1 hv
      rw [publishPart_voice, records v inSet, if_pos sounding]
      exact keyReleased_eq s p vs v
    · rw [publishPart_voice, records v hv]
      simp [held]
    · rw [publishPart_voice, records v hv, if_neg (by simp [stealing]), if_pos (by simp [stealing])]
      exact markedOff_eq s v
  · rw [monoNoteOff_of_more mem last]
    obtain ⟨leaves, stays, moves⟩ := followList_followsTo s p after none
    refine ⟨leaves.part, leaves.others, leaves.voice, fun m now => ⟨?_, fun old => stays (old.trans now.symm),
      fun old v hv => ?_⟩, fun empty => absurd empty last, leaves.eq, leaves.page⟩
    · rw [leaves.sequence, BitVec.add_zero]
    · have connected : (!(s.part p).held.isEmpty) = true := by
        simpa using List.ne_nil_of_mem mem
      have record := moves m now old v hv
      rwa [connected] at record

end Sys2Proof.Machine
end

section
/-! PROOFS. Two states that differ in what note assignment changes: the tune engine abandons a target in one as in the
other, since what it does rests on nothing that the start of notes changes (R27, R100, R101, R103, R105). -/

namespace Sys2Proof.Machine

variable {s t u : State} {v : VoiceIx} {p : PartIx} {area : Nat → Prop}

/-! ### States that differ in what note assignment changes -/

/-- `u` is `s` but for voices, parts, the counter of stamps, the refresh engine and page bytes of `area`. -/
inductive Beside (area : Nat → Prop) (s : State) : State → Prop where
  | mk (voices : Vector Voice 16) (parts : Vector Part 4) (page : Page) (sequence : Long) (refresh : Refresh)
      (same : sameOutside area s.page page) :
      Beside area s
        { s with voices := voices, parts := parts, page := page, sequence := sequence, refresh := refresh }

theorem Beside.page (h : Beside area s t) : sameOutside area s.page t.page := by
  cases h with
  | mk voices parts page sequence refresh same => exact same

theorem Beside.eq (h : Beside area s t) :
    t = { s with
          voices := t.voices, parts := t.parts, page := t.page, sequence := t.sequence, refresh := t.refresh } := by
  cases h with
  | mk voices parts page sequence refresh same => rfl

theorem Beside.tune (h : Beside area s t) : t.tune = s.tune := by rw [h.eq]

theorem Beside.trans (h : Beside area s t) (k : Beside area t u) : Beside area s u := by
  cases h with
  | mk voices parts page sequence refresh same =>
    cases k with
    | mk voices' parts' page' sequence' refresh' same' =>
      exact ⟨voices', parts', page', sequence', refresh', fun k hk => (same' k hk).trans (same k hk)⟩

theorem Touches.beside {A : VoiceIx → Prop} {n : Nat} (h : Touches A n s t)
    (hA : ∀ v k, A v → inVoice v k → area k) : Beside area s t := by
  rw [h.eq]
  exact ⟨_, _, _, _, _, sameOutside_of_page h.frame.page fun w k ⟨v, hv, hw⟩ hk =>
    hA v k hv (inVoice_of_voiceArea hw hk)⟩

theorem publishPart_beside (s : State) (p : PartIx) (old : Part) (hp : ∀ k, inPart p k → area k) :
    Beside area s (s.publishPart p old) := by
  rw [publishPart_eq]
  exact ⟨_, _, _, _, _, sameOutside_of_page (B := partArea p) (fun P hP h => publishPart_page s p old hP h)
    fun w k hw hk => hp k (inPart_of_partArea hw hk)⟩

/-! ### What the tune engine does is the same in both -/

theorem sameOutside.writeWord {g h : Page} (same : sameOutside area g h) (w : Nat) (x : Word) :
    sameOutside area (Page.writeWord g w x) (Page.writeWord h w x) := fun k hk => by
  rw [readByte_writeWord, readByte_writeWord, same k hk]

theorem sameOutside.writeWords {g h : Page} (same : sameOutside area g h) (w : Nat) (xs : List Word) :
    sameOutside area (Page.writeWords g w xs) (Page.writeWords h w xs) := by
  induction xs generalizing g h w with
  | nil => exact same
  | cons x xs ih => exact ih (same.writeWord w x) (w + 1)

/-- A word outside the area reads alike. -/
theorem sameOutside.readWord {g h : Page} (same : sameOutside area g h) {w : Nat}
    (hw : ∀ k, inWords w 1 k → ¬ area k) : Page.readWord h w = Page.readWord g w := by
  unfold Page.readWord
  rw [same _ (hw (2 * w) ⟨by omega, by omega⟩), same _ (hw (2 * w + 1) ⟨by omega, by omega⟩)]

theorem sameOutside.readWords {g h : Page} (same : sameOutside area g h) {w n : Nat}
    (hw : ∀ k, inWords w n k → ¬ area k) : Page.readWords h w n = Page.readWords g w n :=
  readWords_congr fun i hi => same.readWord fun k ⟨h1, h2⟩ => hw k ⟨by omega, by omega⟩

theorem Beside.setTune (h : Beside area s t) (x : Tune) : Beside area { s with tune := x } { t with tune := x } := by
  cases h with
  | mk voices parts page sequence refresh same => exact ⟨_, _, _, _, _, same⟩

theorem Beside.setCause (h : Beside area s t) (c : Byte) : Beside area (setCause c s) (setCause c t) := by
  cases h with
  | mk voices parts page sequence refresh same => exact ⟨_, _, _, _, _, same⟩

theorem Beside.writeWords (h : Beside area s t) (w : Nat) (xs : List Word) :
    Beside area (s.writeWords w xs) (t.writeWords w xs) := by
  cases h with
  | mk voices parts page sequence refresh same => exact ⟨_, _, _, _, _, same.writeWords w xs⟩

theorem Beside.writeWord (h : Beside area s t) (w : Nat) (x : Word) :
    Beside area (s.writeWord w x) (t.writeWord w x) := by
  cases h with
  | mk voices parts page sequence refresh same => exact ⟨_, _, _, _, _, same.writeWord w x⟩

theorem Beside.setSweeper (h : Beside area s t) (x : Sweeper) :
    Beside area { s with sweeper := x } { t with sweeper := x } := by
  cases h with
  | mk voices parts page sequence refresh same => exact ⟨_, _, _, _, _, same⟩

theorem Beside.setHeader (h : Beside area s t) (x : Header) :
    Beside area { s with header := x } { t with header := x } := by
  cases h with
  | mk voices parts page sequence refresh same => exact ⟨_, _, _, _, _, same⟩

theorem publishStatus_eq (s : State) : publishStatus s = s.writeWords statusBase (statusWords s.tune) := rfl

theorem Beside.publishStatus (h : Beside area s t) : Beside area (publishStatus s) (publishStatus t) := by
  rw [publishStatus_eq, publishStatus_eq, h.tune]
  exact h.writeWords _ _

theorem Beside.setTarget (h : Beside area s t) (i : TargetIx) (r : TuneRec) :
    Beside area (setTarget i r s) (setTarget i r t) := by
  have tune := h.setTune { s.tune with recs := s.tune.recs.set i r }
  have written := tune.writeWords (tuneBase i) (tuneWords r)
  have same : Machine.setTarget i r t =
      ({ t with tune := { s.tune with recs := s.tune.recs.set i r } } : State).writeWords (tuneBase i)
        (tuneWords r) := by rw [← h.tune]; rfl
  rw [same]
  exact written

/-- The log header after a failure is logged (R101). -/
def State.loggedTune (s : State) : Tune :=
  { s.tune with
    nextIndex := s.faultIndex + 1
    firstFault := some (s.tune.firstFault.getD s.faultIndex)
    faultCount := satInc s.tune.faultCount }

/-- The entry of a YIELDED failure in the fault log (R101). -/
theorem logFault_yielded (j : TuneJob) (s : State) :
    logFault .yielded j false s =
      publishStatus
        ({ s with tune := s.loggedTune }.writeWords (faultBase s.faultIndex)
          (faultWords .yielded j.target j.point j.attempt j.code j.lastCount false s.time)) := rfl

theorem Beside.logFault (h : Beside area s t) (j : TuneJob) :
    Beside area (logFault .yielded j false s) (logFault .yielded j false t) := by
  have index : t.faultIndex = s.faultIndex := by unfold State.faultIndex; rw [h.tune]
  have tune : t.loggedTune = s.loggedTune := by unfold State.loggedTune; rw [index, h.tune]
  have words : faultWords .yielded j.target j.point j.attempt j.code j.lastCount false t.time =
      faultWords .yielded j.target j.point j.attempt j.code j.lastCount false s.time := by rw [h.eq]
  rw [logFault_yielded, logFault_yielded, index, tune, words]
  exact ((h.setTune _).writeWords _ _).publishStatus

theorem Beside.dropJob (h : Beside area s t) : Beside area (dropJob s) (dropJob t) := by
  unfold Machine.dropJob
  rw [h.tune]
  exact (h.setTune _).publishStatus

theorem discardCompletion_eq (s : State) :
    discardCompletion s =
      ({ s with header := { s.header with discarded := satInc s.header.discarded } } : State).writeWord (headerBase + 12)
        (satInc s.header.discarded) := rfl

/-- A completion looks at the slot alone, which lies outside the area (R197). -/
theorem Beside.complete (h : Beside area s t) (r : Inflight) (c : Completion)
    (hs : ∀ k, inWords (slotBase r.slot) 16 k → ¬ area k) : Beside area (complete r c s) (complete r c t) := by
  have state : slotState t.page r.slot = slotState s.page r.slot :=
    h.page.readWord fun k ⟨h1, h2⟩ => hs k ⟨by omega, by omega⟩
  have ticket : slotTicket t.page r.slot = slotTicket s.page r.slot :=
    h.page.readWord fun k ⟨h1, h2⟩ => hs k ⟨by omega, by omega⟩
  have sweeper : t.sweeper = s.sweeper := by rw [h.eq]
  have left := h.setSweeper (s.sweeper.leave r)
  by_cases shows : slotState s.page r.slot = slotTaken ∧ slotTicket s.page r.slot = r.ticket
  · rw [complete_of_taken c shows, complete_of_taken c (by rw [state, ticket]; exact shows), sweeper]
    exact ((left.writeWords (slotBase r.slot + 13) [c.result, c.remaining, c.detail]).writeWord (slotBase r.slot)
      (if c.result = resOk then slotDone else slotFailed)).setCause causeSlot
  · have header : t.header = s.header := by rw [h.eq]
    rw [complete_of_not_taken c shows, complete_of_not_taken c (by rw [state, ticket]; exact shows), sweeper,
      discardCompletion_eq, discardCompletion_eq, header]
    exact (left.setHeader _).writeWord _ _

/-! ### The third yield (R100, R101) -/

/-- A YIELDED failure is never fatal: the target turns STALE, and the failure is logged unless its kind is masked
(R100, R101). -/
theorem recordFailure_yielded {r : TuneReq} (req : s.tune.req = some r) (j : TuneJob) :
    recordFailure .yielded j s =
      if r.faultMask.getLsbD 5 then setTarget j.target { s.target j.target with health := .stale } s
      else
        setCause causeTune
          (logFault .yielded j false (setTarget j.target { s.target j.target with health := .stale } s)) := by
  simp only [recordFailure, req]
  rfl

theorem Beside.recordFailure_yielded (h : Beside area s t) {r : TuneReq} (req : s.tune.req = some r) (j : TuneJob) :
    Beside area (recordFailure .yielded j s) (recordFailure .yielded j t) := by
  have target : t.target j.target = s.target j.target := by unfold State.target; rw [h.tune]
  rw [Machine.recordFailure_yielded req, Machine.recordFailure_yielded (s := t) (by rw [h.tune]; exact req), target]
  split
  · exact h.setTarget _ _
  · exact ((h.setTarget _ _).logFault _).setCause _

/-- With no target current, the TUNE completes where the queue is empty (R105). -/
theorem finishTune_of_no_job {r : TuneReq} (req : s.tune.req = some r) (job : s.tune.job = none) :
    finishTune s =
      if s.tune.queue = [] then complete r.req r.outcome { s with tune := { s.tune with req := none } } else s := by
  simp only [finishTune, req, job, Option.isNone_none, Bool.true_and, List.isEmpty_iff]
  rfl

theorem recordFailure_yielded_tune {r : TuneReq} (req : s.tune.req = some r) (j : TuneJob) :
    (recordFailure .yielded j s).tune.req = some r ∧ (recordFailure .yielded j s).tune.queue = s.tune.queue := by
  rw [recordFailure_yielded req]
  split <;> exact ⟨req, rfl⟩

theorem dropJob_tune (s : State) : (dropJob s).tune = { s.tune with engine := .idle, job := none } := rfl

/-- The state after the third yield of the work `j`, before the TUNE completes. -/
def State.yieldFailed (s : State) (j : TuneJob) (r : TuneReq) : State :=
  let t := dropJob (recordFailure .yielded j s)
  { t with tune := { t.tune with req := if s.tune.queue = [] then none else some r } }

/-- The third yield fails the target, and the TUNE completes if that was its last (R103, R105). -/
theorem yieldTarget_of_third {j : TuneJob} {r : TuneReq} (job : s.tune.job = some j) (here : voiceOf j.target = v)
    (req : s.tune.req = some r) (third : 2 ≤ j.yields) :
    yieldTarget v s =
      if s.tune.queue = [] then complete r.req r.outcome (s.yieldFailed j r) else s.yieldFailed j r := by
  obtain ⟨reqKept, queueKept⟩ := recordFailure_yielded_tune req j
  have failed : yieldTarget v s = finishTune (dropJob (recordFailure .yielded j s)) := by
    simp only [yieldTarget, job, here, if_true, if_neg (Nat.not_lt.2 third)]
  have dropped := dropJob_tune (recordFailure .yielded j s)
  unfold State.yieldFailed
  rw [failed]
  generalize dropJob (recordFailure .yielded j s) = t at dropped
  have reqT : t.tune.req = some r := by rw [dropped]; exact reqKept
  have queueT : t.tune.queue = s.tune.queue := by rw [dropped]; exact queueKept
  rw [finishTune_of_no_job reqT (by rw [dropped]), queueT]
  by_cases empty : s.tune.queue = []
  · simp only [if_pos empty]
  · simp only [if_neg empty, ← reqT]

/-- The first two yields put the target back into the queue (R103). -/
theorem yieldTarget_of_early {j : TuneJob} (job : s.tune.job = some j) (here : voiceOf j.target = v)
    (early : j.yields < 2) :
    yieldTarget v s =
      publishStatus
        { s with
          tune :=
            { s.tune with engine := .idle, job := none, queue := s.tune.queue ++ [⟨j.target, j.yields + 1⟩] } } := by
  simp only [yieldTarget, job, here, early, if_true]
  rfl

/-- The engine abandons the target of a preempted voice alike in both states. -/
theorem Beside.yieldTarget (h : Beside area s t) {j : TuneJob} {r : TuneReq} (job : s.tune.job = some j)
    (here : voiceOf j.target = v) (req : s.tune.req = some r) (hs : ∀ i k, inWords (slotBase i) 16 k → ¬ area k) :
    Beside area (yieldTarget v s) (yieldTarget v t) := by
  have jobT : t.tune.job = some j := by rw [h.tune]; exact job
  have reqT : t.tune.req = some r := by rw [h.tune]; exact req
  rcases Nat.lt_or_ge j.yields 2 with early | third
  · rw [yieldTarget_of_early job here early, yieldTarget_of_early jobT here early, h.tune]
    exact (h.setTune _).publishStatus
  · rw [yieldTarget_of_third job here req third, yieldTarget_of_third jobT here reqT third, h.tune]
    have failed : Beside area (s.yieldFailed j r) (t.yieldFailed j r) := by
      have dropped := (h.recordFailure_yielded req j).dropJob
      unfold State.yieldFailed
      dsimp only
      rw [h.tune, dropped.tune]
      exact dropped.setTune _
    split
    · exact failed.complete _ _ (hs _)
    · exact failed

end Sys2Proof.Machine
end

section
/-! PROOFS. A NOTE_ON that preempts a TUNING voice: the note starts on it as on a FREE one, and the tune engine does as
it would in the state that the NOTE_ON found (R27, R100, R101, R103, R105). -/

namespace Sys2Proof.Machine

variable {s t u : State} {v : VoiceIx} {p : PartIx} {area : Nat → Prop}

/-! ### The third yield: record, status block and fault log (R100, R101) -/

/-- From `s` to `w` the target of the work `j` has failed at its third yield, with the completion of its TUNE, if it
was the last target, still to be reported. -/
structure YieldFails (s : State) (j : TuneJob) (r : TuneReq) (w : State) : Prop where
  eq : w = { s with tune := w.tune, page := w.page, port := s.failPort .yielded r false }
  tune : w.tune =
    { s.tune with
      engine := .idle, job := none, recs := w.tune.recs, faultCount := w.tune.faultCount
      nextIndex := w.tune.nextIndex, firstFault := w.tune.firstFault
      req := if s.tune.queue = [] then none else some r }
  target : w.target j.target = { s.target j.target with health := .stale }
  others : ∀ t, t ≠ j.target → w.target t = s.target t
  record : Page.readWords w.page (tuneBase j.target) 12 = tuneWords (w.target j.target)
  status : Page.readWords w.page statusBase 32 = statusWords w.tune
  log : s.logsTo .yielded j.lastCount j r false w
  page : sameOutside (fun k => inStatus k ∨ inWords (tuneBase j.target) 12 k ∨ inWords (faultBase 0) 128 k)
    s.page w.page

theorem readByte_outside_status {k : Nat} (h : ¬ inStatus k) (g : Page) (x : Tune) :
    Page.readByte (Page.writeStatus g x) k = Page.readByte g k := by
  unfold inStatus inWords at h
  exact readByte_writeWords_ne _ _ (by rw [statusWords_length]; omega)

theorem readByte_outside_record {i : TargetIx} {k : Nat} (h : ¬ inWords (tuneBase i) 12 k) (g : Page) (x : TuneRec) :
    Page.readByte (Page.writeTune g i x) k = Page.readByte g k := by
  unfold inWords at h
  exact readByte_writeWords_ne _ _ (by rw [tuneWords_length]; omega)

theorem readByte_outside_fault {i : Fin 16} {k : Nat} {ws : List Word} (hw : ws.length = 8)
    (h : ¬ inWords (faultBase i) 8 k) (g : Page) :
    Page.readByte (Page.writeWords g (faultBase i) ws) k = Page.readByte g k := by
  unfold inWords at h
  exact readByte_writeWords_ne _ _ (by rw [hw]; omega)

theorem readWords_status (g : Page) (x : Tune) :
    Page.readWords (Page.writeStatus g x) statusBase 32 = statusWords x := by
  have read := readWords_writeWords (statusWords x) g statusBase
  rwa [statusWords_length] at read

theorem readWords_record (g : Page) (i : TargetIx) (x : TuneRec) :
    Page.readWords (Page.writeTune g i x) (tuneBase i) 12 = tuneWords x := by
  have read := readWords_writeWords (tuneWords x) g (tuneBase i)
  rwa [tuneWords_length] at read

theorem readWords_record_status (g : Page) (i : TargetIx) (x : Tune) :
    Page.readWords (Page.writeStatus g x) (tuneBase i) 12 = Page.readWords g (tuneBase i) 12 :=
  readWords_writeWords_ne _ _ (.inr (by rw [statusWords_length]; unfold statusBase tuneBase; omega))

theorem target_setTarget_self (i : TargetIx) (x : TuneRec) (s : State) : (setTarget i x s).target i = x := by
  simp [State.target, setTarget]

theorem target_setTarget_ne {i q : TargetIx} (h : q ≠ i) (x : TuneRec) (s : State) :
    (setTarget i x s).target q = s.target q := by
  simp only [State.target, setTarget, Fin.getElem_fin]
  exact Vector.getElem_set_ne _ _ fun e => h (Fin.ext e.symm)

/-- The target of the work `j` turned STALE. -/
def State.staled (s : State) (j : TuneJob) : State :=
  setTarget j.target { s.target j.target with health := .stale } s

/-- The tune engine has no target any more. -/
def Tune.idled (x : Tune) : Tune := { x with engine := .idle, job := none }

/-- The status block does not show the request in flight. -/
theorem statusWords_req (x : Tune) (q : Option TuneReq) : statusWords { x with req := q } = statusWords x := rfl

theorem dropJob_eq (s : State) :
    dropJob s = { s with tune := s.tune.idled, page := Page.writeStatus s.page s.tune.idled } := rfl

theorem yieldFailed_eq {m : State} (j : TuneJob) (r : TuneReq) (h : recordFailure .yielded j s = m) :
    s.yieldFailed j r =
      { m with
        tune := { m.tune.idled with req := if s.tune.queue = [] then none else some r }
        page := Page.writeStatus m.page m.tune.idled } := by
  unfold State.yieldFailed
  rw [h, dropJob_eq]

/-- What the failure at the third yield records before the engine drops the target. -/
structure YieldRecorded (s : State) (j : TuneJob) (r : TuneReq) (m : State) : Prop where
  eq : m = { s with tune := m.tune, page := m.page, port := s.failPort .yielded r false }
  tune : m.tune =
    { s.tune with
      recs := m.tune.recs, faultCount := m.tune.faultCount, nextIndex := m.tune.nextIndex
      firstFault := m.tune.firstFault }
  target : m.target j.target = { s.target j.target with health := .stale }
  others : ∀ t, t ≠ j.target → m.target t = s.target t
  record : Page.readWords m.page (tuneBase j.target) 12 = tuneWords (m.target j.target)
  log : s.logsTo .yielded j.lastCount j r false m
  page : sameOutside (fun k => inStatus k ∨ inWords (tuneBase j.target) 12 k ∨ inWords (faultBase 0) 128 k)
    s.page m.page

theorem fault_not_inStatus {k : Nat} (h : inWords (faultBase 0) 128 k) : ¬ inStatus k := by
  unfold inStatus inWords statusBase
  unfold inWords faultBase at h
  omega

theorem fault_not_inRecord {i : TargetIx} {k : Nat} (h : inWords (faultBase 0) 128 k) :
    ¬ inWords (tuneBase i) 12 k := by
  unfold inWords tuneBase
  unfold inWords faultBase at h
  omega

theorem entry_inWords (i : Fin 16) {k : Nat} (h : inWords (faultBase i) 8 k) : inWords (faultBase 0) 128 k := by
  unfold inWords faultBase at h ⊢
  simp only [Fin.val_zero]
  omega

/-- The status block is apart from the fault log. -/
theorem readWords_fault_status (g : Page) (i : Fin 16) (x : Tune) :
    Page.readWords (Page.writeStatus g x) (faultBase i) 8 = Page.readWords g (faultBase i) 8 :=
  readWords_writeWords_ne _ _ (.inr (by rw [statusWords_length]; unfold statusBase faultBase; omega))

theorem YieldRecorded.fails {j : TuneJob} {r : TuneReq} {m : State} (h : YieldRecorded s j r m)
    (recorded : recordFailure .yielded j s = m) : YieldFails s j r (s.yieldFailed j r) := by
  rw [yieldFailed_eq j r recorded]
  generalize tune : ({ m.tune.idled with req := if s.tune.queue = [] then none else some r } : Tune) = x
  generalize page : Page.writeStatus m.page m.tune.idled = g
  have status : Page.readWords g statusBase 32 = statusWords x := by
    rw [← page, readWords_status, ← tune]
    exact (statusWords_req ..).symm
  have record : Page.readWords g (tuneBase j.target) 12 = Page.readWords m.page (tuneBase j.target) 12 := by
    rw [← page, readWords_record_status]
  have fault : Page.readWords g (faultBase s.faultIndex) 8 = Page.readWords m.page (faultBase s.faultIndex) 8 := by
    rw [← page, readWords_fault_status]
  have kept {k : Nat} (hk : ¬ inStatus k) : Page.readByte g k = Page.readByte m.page k := by
    rw [← page]; exact readByte_outside_status hk ..
  have target (q : TargetIx) : ({ m with tune := x, page := g } : State).target q = m.target q := by
    rw [← tune]; rfl
  exact
    { eq := by rw [h.eq]
      tune := by
        show x = _
        rw [← tune, Tune.idled, h.tune]
      target := (target _).trans h.target
      others := fun q hq => (target q).trans (h.others q hq)
      record := by rw [target, ← h.record]; exact record
      status := status
      log := by
        obtain ⟨masked, logged⟩ := h.log
        refine ⟨fun e => ?_, fun e => ?_⟩
        · obtain ⟨next, first, count, bytes⟩ := masked e
          rw [← tune]
          exact ⟨next, first, count, fun k hk => (kept (fault_not_inStatus hk)).trans (bytes k hk)⟩
        · obtain ⟨next, first, count, entry, bytes⟩ := logged e
          rw [← tune]
          exact ⟨next, first, count, fault.trans entry, fun k hk he =>
            (kept (fault_not_inStatus hk)).trans (bytes k hk he)⟩
      page := fun k hk => (kept fun e => hk (.inl e)).trans (h.page k hk) }

theorem failPort_of_masked {r : TuneReq} (masked : r.faultMask.getLsbD 5 = true) (s : State) :
    s.failPort .yielded r false = s.port := if_pos masked

theorem failPort_of_logged {r : TuneReq} (logged : r.faultMask.getLsbD 5 = false) (s : State) :
    s.failPort .yielded r false = s.port.setCause causeTune :=
  if_neg (by exact fun e => absurd (logged.symm.trans e) nofun)

theorem staled_recorded (s : State) (j : TuneJob) {r : TuneReq} (masked : r.faultMask.getLsbD 5 = true) :
    YieldRecorded s j r (s.staled j) where
  eq := by rw [failPort_of_masked masked]; rfl
  tune := rfl
  target := target_setTarget_self ..
  others _ h := target_setTarget_ne h ..
  record := (readWords_record ..).trans (by rw [State.staled, target_setTarget_self])
  log := ⟨fun _ => ⟨rfl, rfl, rfl, fun _ hk => readByte_outside_record (fault_not_inRecord hk) ..⟩,
    fun e => absurd (masked.symm.trans e) nofun⟩
  page _ hk := readByte_outside_record (fun e => hk (.inr (.inl e))) ..

theorem logFault_page (j : TuneJob) (s : State) :
    (logFault .yielded j false s).page =
      Page.writeStatus
        (Page.writeWords s.page (faultBase s.faultIndex)
          (faultWords .yielded j.target j.point j.attempt j.code j.lastCount false s.time)) s.loggedTune := by
  rw [logFault_yielded, publishStatus, writeWords_page, writeWords_tune]

theorem logFault_eq (j : TuneJob) (s : State) :
    logFault .yielded j false s =
      { s with tune := s.loggedTune, page := (logFault .yielded j false s).page } := by
  rw [logFault_yielded, publishStatus]
  dsimp only
  generalize Page.writeStatus _ _ = g
  rfl

/-- Logging the failure of the target that has turned STALE (R101). -/
theorem logFault_recorded (s : State) (j : TuneJob) {r : TuneReq} (logged : r.faultMask.getLsbD 5 = false) :
    YieldRecorded s j r (setCause causeTune (logFault .yielded j false (s.staled j))) := by
  have page := logFault_page j (s.staled j)
  rw [logFault_eq]
  generalize (logFault .yielded j false (s.staled j)).page = g at page
  have target (q : TargetIx) :
      (setCause causeTune { s.staled j with tune := (s.staled j).loggedTune, page := g }).target q =
        (s.staled j).target q := rfl
  have record : Page.readWords g (tuneBase j.target) 12 = tuneWords { s.target j.target with health := .stale } := by
    rw [page, readWords_record_status, readWords_writeWords_ne _ _ (.inr ?_)]
    · exact readWords_record ..
    · show _ + 8 ≤ _
      unfold faultBase tuneBase
      omega
  have entry : Page.readWords g (faultBase s.faultIndex) 8 =
      faultWords .yielded j.target j.point j.attempt j.code j.lastCount false s.time := by
    rw [page, readWords_fault_status]
    exact readWords_writeWords ..
  have outside {k : Nat} (status : ¬ inStatus k) (area : ¬ inWords (tuneBase j.target) 12 k)
      (fault : ¬ inWords (faultBase s.faultIndex) 8 k) : Page.readByte g k = Page.readByte s.page k := by
    rw [page, readByte_outside_status status]
    exact (readByte_outside_fault rfl fault _).trans (readByte_outside_record area ..)
  exact
    { eq := by rw [failPort_of_logged logged]; rfl
      tune := rfl
      target := (target _).trans (target_setTarget_self ..)
      others := fun q hq => (target q).trans (target_setTarget_ne hq ..)
      record := record.trans (by rw [target, State.staled, target_setTarget_self])
      log := ⟨fun e => absurd (logged.symm.trans e) nofun, fun _ => ⟨rfl, rfl, rfl, entry, fun k hk he =>
        outside (fault_not_inStatus hk) (fault_not_inRecord hk) he⟩⟩
      page := fun k hk => by
        obtain ⟨status, area, fault⟩ := (by simpa only [not_or] using hk)
        exact outside status area fun e => fault (entry_inWords _ e) }

/-- The third yield fails the target YIELDED (R100, R101). -/
theorem yieldFailed_fails {r : TuneReq} (req : s.tune.req = some r) (j : TuneJob) :
    YieldFails s j r (s.yieldFailed j r) := by
  have failure := recordFailure_yielded req j
  cases mask : r.faultMask.getLsbD 5 with
  | true =>
    rw [if_pos mask] at failure
    exact (staled_recorded s j mask).fails failure
  | false =>
    rw [if_neg (by rw [mask]; nofun)] at failure
    exact (logFault_recorded s j mask).fails failure

/-! ### What a yield leaves (R103) -/

theorem complete_eq (q : Inflight) (c : Completion) (s : State) :
    complete q c s =
      { s with
        sweeper := (complete q c s).sweeper, header := (complete q c s).header, port := (complete q c s).port
        page := (complete q c s).page } := by
  unfold complete
  split <;> rfl

/-- A yield changes the tune engine and what shows of it, and leaves the engine idle. -/
theorem yieldTarget_leaves {j : TuneJob} {r : TuneReq} (job : s.tune.job = some j) (here : voiceOf j.target = v)
    (req : s.tune.req = some r) :
    ∃ tune page port sweeper header,
      yieldTarget v s =
        { s with tune := tune, page := page, port := port, sweeper := sweeper, header := header } ∧
      tune.engine = .idle ∧ tune.job = none := by
  rcases Nat.lt_or_ge j.yields 2 with early | third
  · exact ⟨_, _, _, _, _, yieldTarget_of_early job here early, rfl, rfl⟩
  · have fails := yieldFailed_fails req j
    rw [yieldTarget_of_third job here req third]
    generalize s.yieldFailed j r = w at fails
    have idle : w.tune.engine = .idle ∧ w.tune.job = none := by rw [fails.tune]; exact ⟨rfl, rfl⟩
    split
    · have completed := complete_eq r.req r.outcome w
      generalize complete r.req r.outcome w = x at completed
      refine ⟨w.tune, x.page, x.port, x.sweeper, x.header, ?_, idle⟩
      rw [completed, fails.eq]
    · exact ⟨w.tune, _, _, _, _, fails.eq, idle⟩

/-! ### The choice of the voice that the tune engine works on (R27) -/

/-- The voice takes the note like a FREE one, and the engine abandons its target (R27, R103). -/
theorem assignVoice_preempts (p : PartIx) (n : NoteInfo) (i k : Nat) (tuning : (s.voice v).state = .tuning)
    (room : s.roomFor 1) :
    assignVoice p n i k v s = yieldTarget v (assignFresh p n i k v s) ∧
      (assignFresh p n i k v s).voice v = s.assigned p n i k s.sequence v := by
  refine ⟨?_, ?_⟩
  · unfold assignVoice
    rw [tuning]
  · rw [assigned_of_fresh (.inr tuning)]
    exact assignFresh_voice p n i k room (by rw [tuning]; nofun)

/-- With its target abandoned the engine stands in the way of no further choice (R25, R27). -/
theorem assignAll_after_yield (n : NoteInfo) (i k : Nat) {vs : List VoiceIx} {j : TuneJob} {r : TuneReq}
    (nodup : vs.Nodup) (part : ∀ w ∈ vs, (s.voice w).part = some p)
    (candidate : ∀ w ∈ vs, (s.voice w).state.choosable = true) (job : s.tune.job = some j)
    (here : voiceOf j.target = v) (req : s.tune.req = some r) (room : s.roomFor (vs.map s.stampsOf).sum) :
    Touches (· ∈ vs) (vs.map s.stampsOf).sum (yieldTarget v s) (assignAll p n k i vs (yieldTarget v s)) := by
  obtain ⟨tune, page, port, sweeper, header, left, -, idle⟩ := yieldTarget_leaves job here req
  have same : (yieldTarget v s).voice = s.voice := by rw [left]; rfl
  have stamps : (yieldTarget v s).stampsOf = s.stampsOf := funext fun w => stampsOf_congr (congrFun same w)
  have touched := (assignAll_spec (s := yieldTarget v s) n k i nodup (by rw [same]; exact part)
    (by rw [same]; exact candidate)
    (fun w _ _ l hl => by rw [left] at hl; exact absurd (idle.symm.trans hl) nofun)
    (by rw [stamps, left]; exact room)).1
  rwa [stamps] at touched

/-- The voices chosen take the note, and the engine abandons its target when its voice has taken it: before and after
that only chosen voices are touched. -/
theorem assignAll_preempts (n : NoteInfo) (k : Nat) {vs : List VoiceIx} {j : TuneJob} {r : TuneReq} (nodup : vs.Nodup)
    (part : ∀ w ∈ vs, (s.voice w).part = some p) (candidate : ∀ w ∈ vs, (s.voice w).state.choosable = true)
    (mem : v ∈ vs) (tuning : (s.voice v).state = .tuning) (job : s.tune.job = some j) (here : voiceOf j.target = v)
    (req : s.tune.req = some r) (room : s.roomFor (vs.map s.stampsOf).sum) :
    ∃ a m m', Touches (· ∈ vs) m s a ∧ Touches (· ∈ vs) m' (yieldTarget v a) (assignAll p n k 0 vs s) ∧
      ∀ (i : Nat) (h : i < vs.length), vs[i] = v →
        (assignAll p n k 0 vs s).voice v = s.assigned p n i k (s.stampBefore vs i) v := by
  obtain ⟨before, after, rfl⟩ := List.append_of_mem mem
  obtain ⟨nodupBefore, nodupRest, apart⟩ := List.nodup_append.1 nodup
  obtain ⟨notAfter, nodupAfter⟩ := List.nodup_cons.1 nodupRest
  have notBefore : v ∉ before := fun h => apart v h v (by simp) rfl
  rw [List.map_append, List.map_cons, List.sum_append, List.sum_cons, stampsOf_of_fresh (.inr tuning)] at room
  -- the voices chosen before `v`, none of which the engine works on
  obtain ⟨touchedBefore, -⟩ := assignAll_spec n k 0 nodupBefore (fun w h => part w (by simp [h]))
    (fun w h => candidate w (by simp [h]))
    (fun w h _ l hl e => notBefore (by
      obtain rfl : j = l := Option.some.inj (job.symm.trans hl)
      rwa [← here, e])) (room.mono (Nat.le_add_right ..))
  have steps : assignAll p n k 0 (before ++ v :: after) s =
      assignAll p n k (0 + before.length + 1) after
        (assignVoice p n (0 + before.length) k v (assignAll p n k 0 before s)) := assignAll_append ..
  rw [steps]
  generalize assignAll p n k 0 before s = c at touchedBefore
  -- `v` itself
  have sameV : c.voice v = s.voice v := touchedBefore.voice v notBefore
  have roomC := touchedBefore.roomFor room
  have roomV := roomC.mono (Nat.le_add_right ..)
  have fresh := assignFresh_touches (v := v) p n (0 + before.length) k roomV
  obtain ⟨preempt, record⟩ := assignVoice_preempts p n (0 + before.length) k (by rw [sameV]; exact tuning) roomV
  have roomA := fresh.roomFor roomC
  rw [preempt]
  generalize assignFresh p n (0 + before.length) k v c = a at fresh record roomA
  have touchedA := (touchedBefore.mono (B := (· ∈ before ++ v :: after)) (by simp +contextual)).trans
    (fresh.mono (B := (· ∈ before ++ v :: after)) (by simp))
  have jobA : a.tune.job = some j := by rw [touchedA.tune]; exact job
  have reqA : a.tune.req = some r := by rw [touchedA.tune]; exact req
  -- the voices chosen after `v`
  have sameA (w) (hw : w ∈ after) : a.voice w = s.voice w :=
    (fresh.voice w fun e => notAfter (e ▸ hw)).trans (touchedBefore.voice w fun h => apart w h w (by simp [hw]) rfl)
  have stamps : after.map a.stampsOf = after.map s.stampsOf :=
    List.map_congr_left fun w hw => stampsOf_congr (sameA w hw)
  have touchedAfter := assignAll_after_yield n (0 + before.length + 1) k nodupAfter
    (fun w h => by rw [sameA w h]; exact part w (by simp [h]))
    (fun w h => by rw [sameA w h]; exact candidate w (by simp [h])) jobA here reqA (by rw [stamps]; exact roomA)
  refine ⟨a, _, _, touchedA, touchedAfter.mono (by simp +contextual), fun i h at_v => ?_⟩
  obtain rfl : i = before.length := (List.Nodup.getElem_inj_iff nodup (hj := by simp)).1 (at_v.trans (by simp))
  have recordB : (yieldTarget v a).voice v = a.voice v := by
    obtain ⟨tune, page, port, sweeper, header, left, -⟩ := yieldTarget_leaves jobA here reqA
    rw [left]
    rfl
  have stampsBefore : s.stampBefore (before ++ v :: after) before.length = c.sequence := by
    rw [State.stampBefore, List.take_left, touchedBefore.sequence]
  rw [touchedAfter.voice v notAfter, recordB, record, stampsBefore, touchedBefore.assigned sameV, Nat.zero_add]

/-! ### The NOTE_ON -/

/-- Where a NOTE_ON may write: the record of its part and those of the voices it chooses. -/
def noteArea (p : PartIx) (vs : List VoiceIx) (k : Nat) : Prop := inPart p k ∨ ∃ x ∈ vs, inVoice x k

theorem noteArea_below {vs : List VoiceIx} {k : Nat} (h : noteArea p vs k) :
    2 * 0x0120 ≤ k ∧ k < 2 * statusBase := by
  unfold noteArea inPart inVoice inWords partBase voiceBase at h
  unfold statusBase
  rcases h with h | ⟨x, -, h⟩ <;> omega

theorem slot_not_noteArea {vs : List VoiceIx} (i : SlotIx) (k : Nat) (h : inWords (slotBase i) 16 k) :
    ¬ noteArea p vs k := fun hk => by
  have low := (noteArea_below hk).1
  unfold inWords slotBase at h
  omega

theorem Touches.noteBeside {m : Nat} {vs : List VoiceIx} (h : Touches (· ∈ vs) m s t) :
    Beside (noteArea p vs) s t :=
  h.beside fun x _ hx hk => .inr ⟨x, hx, hk⟩

theorem Beside.setPart (s : State) (p : PartIx) (x : Part) : Beside area s (s.setPart p x) :=
  ⟨_, _, _, _, _, fun _ _ => rfl⟩

/-- The state that a NOTE_ON reaches is the yield of the state that it found, but for voices, parts, stamps, the
records in the page and the turn in progress. -/
structure Preempts (s : State) (p : PartIx) (vs : List VoiceIx) (v : VoiceIx) (u : State) : Prop where
  beside : Beside (noteArea p vs) (yieldTarget v s) u
  refresh : u.refresh = { s.refresh with turn := u.refresh.turn }
  voice : ∀ x, x ∉ vs → u.voice x = s.voice x

theorem preempts_of_touches {vs : List VoiceIx} {x : Part} {a c : State} {m m' : Nat} {j : TuneJob} {r : TuneReq}
    (job : s.tune.job = some j) (here : voiceOf j.target = v) (req : s.tune.req = some r)
    (before : Touches (· ∈ vs) m (s.setPart p x) a) (after : Touches (· ∈ vs) m' (yieldTarget v a) c) (old : Part) :
    Preempts s p vs v (c.publishPart p old) := by
  have start : Beside (noteArea p vs) s a := (Beside.setPart s p x).trans before.noteBeside
  have yields := start.yieldTarget job here req fun i k => slot_not_noteArea i k
  obtain ⟨tune, page, port, sweeper, header, left, -⟩ :=
    yieldTarget_leaves (s := a) (by rw [start.tune]; exact job) here (by rw [start.tune]; exact req)
  have refreshA : a.refresh = { s.refresh with turn := a.refresh.turn } := before.refresh
  have refreshB : (yieldTarget v a).refresh = a.refresh := by rw [left]
  have refreshU : (c.publishPart p old).refresh = c.refresh := publishPart_keeps State.refresh c p old fun _ _ => rfl
  have voiceB (w : VoiceIx) : (yieldTarget v a).voice w = a.voice w := by rw [left]; rfl
  exact
    { beside := (yields.trans after.noteBeside).trans (publishPart_beside c p old fun k => .inl)
      refresh := by rw [refreshU, after.refresh, refreshB, refreshA]
      voice := fun w hw => by rw [publishPart_voice, after.voice w hw, voiceB, before.voice w hw, voice_setPart] }

/-- Before the third yield the target rejoins the queue, and the status block shows it (R103, R109). -/
theorem Preempts.of_early {vs : List VoiceIx} {j : TuneJob} (h : Preempts s p vs v u) (job : s.tune.job = some j)
    (here : voiceOf j.target = v) (early : j.yields < 2) :
    u = { s with
          voices := u.voices, parts := u.parts, page := u.page, sequence := u.sequence
          tune := { s.tune with engine := .idle, job := none, queue := s.tune.queue ++ [⟨j.target, j.yields + 1⟩] }
          refresh := { s.refresh with turn := u.refresh.turn } } ∧
    Page.readWords u.page statusBase 32 = statusWords u.tune ∧
    sameOutside (fun k => inPart p k ∨ (∃ x ∈ vs, inVoice x k) ∨ inStatus k) s.page u.page := by
  have beside := h.beside
  rw [yieldTarget_of_early job here early, publishStatus] at beside
  generalize tune : ({ s.tune with
    engine := .idle, job := none, queue := s.tune.queue ++ [⟨j.target, j.yields + 1⟩] } : Tune) = x at beside ⊢
  dsimp only at beside
  generalize shown : Page.writeStatus s.page x = g at beside
  have page : sameOutside (noteArea p vs) g u.page := beside.page
  have status : Page.readWords u.page statusBase 32 = statusWords x := by
    rw [page.readWords fun k hk hn => ?_]
    · rw [← shown, readWords_status]
    · have := (noteArea_below hn).2
      unfold inWords at hk
      omega
  refine ⟨?_, by rw [beside.tune]; exact status, fun k hk => ?_⟩
  · conv_lhs => rw [beside.eq]
    rw [← h.refresh]
  · have apart : ¬ noteArea p vs k ∧ ¬ inStatus k := by
      unfold noteArea
      rw [← not_or, or_assoc]
      exact hk
    rw [page k apart.1, ← shown, readByte_outside_status apart.2]

/-- At the third yield the target fails, and the TUNE that has no target left completes (R103, R105). -/
theorem Preempts.of_third {vs : List VoiceIx} {j : TuneJob} {r : TuneReq} (h : Preempts s p vs v u)
    (job : s.tune.job = some j) (here : voiceOf j.target = v) (req : s.tune.req = some r) (third : 2 ≤ j.yields) :
    let w := s.yieldFailed j r
    let x := if s.tune.queue = [] then complete r.req r.outcome w else w
    u = { x with
          voices := u.voices, parts := u.parts, page := u.page, sequence := u.sequence
          refresh := { s.refresh with turn := u.refresh.turn } } ∧
    sameOutside (noteArea p vs) x.page u.page := by
  intro w x
  have beside := h.beside
  rw [yieldTarget_of_third job here req third] at beside
  refine ⟨?_, beside.page⟩
  conv_lhs => rw [beside.eq]
  rw [← h.refresh]

/-- Settles O28: a chosen voice that the engine works on is taken like a FREE one, and the rest of the entry leaves
what its target yields as it is. -/
theorem noteOnPreemptsTuningVoice : Obligations.NoteOnPreemptsTuningVoice := by
  intro s p e v j r plays allocates mem tuning job here req vs room
  have assigned := (playNote_of_allocates allocates).trans (if_neg (List.ne_nil_of_mem mem))
  obtain ⟨a, m, m', before, after, record⟩ :=
    assignAll_preempts (s := s.setPart p (s.entered p e)) (s.played p e) vs.length (chosen_nodup s p)
      (fun _ => part_of_mem_chosen) (fun _ h => choosable_of_mem_chosen (s := s) h) mem tuning job here req room
  have preempts := preempts_of_touches job here req before after (s.part p)
  obtain ⟨tune, page, port, sweeper, header, left, engine, idle⟩ := yieldTarget_leaves job here req
  refine ⟨_, exec_of_playsNote plays, ?_⟩
  rw [onPart, assigned]
  generalize ends :
    (assignAll p (s.played p e) vs.length 0 vs (s.setPart p (s.entered p e))).publishPart p (s.part p) = u
  rw [ends] at preempts
  have uTune : u.tune = tune := by rw [preempts.beside.tune, left]
  refine ⟨fun i h at_v => ?_, preempts.voice, by rw [uTune, engine], by rw [uTune, idle],
    preempts.of_early job here, fun third => ⟨s.yieldFailed j r, ?_⟩⟩
  · rw [← ends, publishPart_voice, record i h at_v]
    exact assigned_of_fresh (.inr tuning) ..
  · obtain ⟨eq, tune, target, others, words, status, log, page⟩ := yieldFailed_fails req j
    exact ⟨eq, tune, target, others, words, status, log, page, preempts.of_third job here req third⟩

end Sys2Proof.Machine
end
